-- ==== Sys2Proof/Word.lean ====
section
/-! DEFINITION. The machine's words (spec/10_state.md R13): every register, ALU operand, address and program
counter is 32 bits wide (spec/00_scope.md R7, XLEN and ADDR_WIDTH), a byte is 8 bits, and a register field is 5
bits. Their plain arithmetic is BitVec's own: `+` and `-` wrap modulo 2^32, as R9 says. -/

namespace Sys2Proof

/-- R13: `Word = bits(32)`. -/
abbrev Word := BitVec 32

/-- R13: `Addr = bits(32)`. -/
abbrev Addr := BitVec 32

/-- R13: `Byte = bits(8)`. -/
abbrev Byte := BitVec 8

/-- R13: `RegIdx = 0..31 (bits(5))`. -/
abbrev RegIdx := BitVec 5

end Sys2Proof
end

