-- ==== Sys2Proof/Config.lean ====
section
/-! DEFINITION. What is fixed for a run (spec/00_scope.md R7, R8): the capacities, which the source gives, and the
parameters whose other value the spec describes too, as an argument of the machine's operations. -/

namespace Sys2Proof

/-- R7 ROB_SIZE. -/
abbrev robSize : Nat := 32

/-- R7 RS_SIZE. -/
abbrev rsSize : Nat := 32

/-- R7 LSQ_SIZE as this hardware takes it (the spec's decision D8), and the number of entries State has room for. No
more than ROB_SIZE records are ever in flight, so a longer queue would not use the rest (log entry 5). -/
abbrev lsqSize : Nat := 32

/-- R7 NREGS. -/
abbrev nRegs : Nat := 32

/-- R7 UNLOADED_BYTE as this hardware takes it, R40 (decision D3). It is what an address that the memory's list does
not name reads as, whatever a run's own UNLOADED_BYTE is. -/
def unloadedByte : Byte := 0x00#8

/-- R107 BRANCH_PREDICT: the speculated next PC of a conditional branch. -/
inductive BranchPredict where
  | taken
  | notTaken
  deriving DecidableEq, Repr

/-- R105 ILLEGAL_POLICY: when an undecodable word faults. -/
inductive IllegalPolicy where
  | deferred
  | immediate
  deriving DecidableEq, Repr

/-- The parameters of R7 that a run may take with another value. -/
structure Config where
  /-- ADDR_WIDTH (R38, decision D2): an access at an address of more bits is outside the spec (I4). -/
  addrWidth : Nat
  /-- MEM_BYTES (R38, decision D2): an access at or above it is outside the spec (I4). -/
  memBytes : Nat
  /-- LSQ_SIZE (R131, decision D8). -/
  lsqSize : Nat
  /-- UNLOADED_BYTE (R40, decision D3). -/
  unloadedByte : Byte
  /-- HALT_WORD (R70, decision D10). -/
  haltWord : Word
  /-- HALT_BIT (R21, decision D12). -/
  haltBit : Nat
  /-- BRANCH_PREDICT (R107, decision D9). -/
  branchPredict : BranchPredict
  /-- STRICT_DECODE (R72, decision D16). -/
  strictDecode : Bool
  /-- ILLEGAL_POLICY (R105, decision D15). -/
  illegalPolicy : IllegalPolicy
  /-- MAX_CYCLES (R87, decision D29): `none` is no cap. -/
  maxCycles : Option Nat
  /-- CAP_EXIT_CODE (R87). -/
  capExitCode : BitVec 8
  /-- RESET_PC (R202, decision D6). -/
  resetPc : Addr
  /-- REG_RESET (R37, decision D7). -/
  regReset : Word
  deriving DecidableEq, Repr

/-- The values R7 gives this hardware. -/
def Config.core : Config where
  addrWidth := 32
  memBytes := 2 ^ 32
  lsqSize := Sys2Proof.lsqSize
  unloadedByte := Sys2Proof.unloadedByte
  haltWord := 0x0FF50513#32
  haltBit := 8
  branchPredict := .taken
  strictDecode := true
  illegalPolicy := .deferred
  maxCycles := none
  capExitCode := 255#8
  resetPc := 0x00000000#32
  regReset := 0x00000000#32

end Sys2Proof
end

