-- ==== Sys2Proof/Syntax.lean ====
section
/-! DEFINITION. The instructions (spec/30_encoding.md R69): the 37 RV32I operations the source lists and the halt
sentinel, one constructor per row of spec/opcode_table.json, with the operand fields of its format (R64). -/

namespace Sys2Proof

/-- One instruction of the table of R69. An immediate is held at its own width, before sign extension (R66): 12
bits in the I and S formats, 20 bits (`w[31:12]`) in the U format, and the byte offset itself in the B (13 bits)
and J (21 bits) formats, whose bit 0 the encoding has no place for (WellFormed asks that it is 0). -/
inductive Instr where
  /-- R137 -/
  | lui (rd : RegIdx) (imm : BitVec 20)
  /-- R138 -/
  | auipc (rd : RegIdx) (imm : BitVec 20)
  /-- R162 -/
  | jal (rd : RegIdx) (off : BitVec 21)
  /-- R163 -/
  | jalr (rd rs1 : RegIdx) (imm : BitVec 12)
  /-- R165 -/
  | beq (rs1 rs2 : RegIdx) (off : BitVec 13)
  /-- R166 -/
  | bne (rs1 rs2 : RegIdx) (off : BitVec 13)
  /-- R167 -/
  | blt (rs1 rs2 : RegIdx) (off : BitVec 13)
  /-- R168 -/
  | bge (rs1 rs2 : RegIdx) (off : BitVec 13)
  /-- R169 -/
  | bltu (rs1 rs2 : RegIdx) (off : BitVec 13)
  /-- R170 -/
  | bgeu (rs1 rs2 : RegIdx) (off : BitVec 13)
  /-- R174 -/
  | lb (rd rs1 : RegIdx) (imm : BitVec 12)
  /-- R175 -/
  | lh (rd rs1 : RegIdx) (imm : BitVec 12)
  /-- R176 -/
  | lw (rd rs1 : RegIdx) (imm : BitVec 12)
  /-- R177 -/
  | lbu (rd rs1 : RegIdx) (imm : BitVec 12)
  /-- R178 -/
  | lhu (rd rs1 : RegIdx) (imm : BitVec 12)
  /-- R179 -/
  | sb (rs1 rs2 : RegIdx) (imm : BitVec 12)
  /-- R180 -/
  | sh (rs1 rs2 : RegIdx) (imm : BitVec 12)
  /-- R181 -/
  | sw (rs1 rs2 : RegIdx) (imm : BitVec 12)
  /-- R139 -/
  | addi (rd rs1 : RegIdx) (imm : BitVec 12)
  /-- R140 -/
  | slti (rd rs1 : RegIdx) (imm : BitVec 12)
  /-- R141 -/
  | sltiu (rd rs1 : RegIdx) (imm : BitVec 12)
  /-- R142 -/
  | xori (rd rs1 : RegIdx) (imm : BitVec 12)
  /-- R143 -/
  | ori (rd rs1 : RegIdx) (imm : BitVec 12)
  /-- R144 -/
  | andi (rd rs1 : RegIdx) (imm : BitVec 12)
  /-- R145 -/
  | slli (rd rs1 : RegIdx) (shamt : BitVec 5)
  /-- R146 -/
  | srli (rd rs1 : RegIdx) (shamt : BitVec 5)
  /-- R147 -/
  | srai (rd rs1 : RegIdx) (shamt : BitVec 5)
  /-- R148 -/
  | add (rd rs1 rs2 : RegIdx)
  /-- R149 -/
  | sub (rd rs1 rs2 : RegIdx)
  /-- R150 -/
  | sll (rd rs1 rs2 : RegIdx)
  /-- R151 -/
  | slt (rd rs1 rs2 : RegIdx)
  /-- R152 -/
  | sltu (rd rs1 rs2 : RegIdx)
  /-- R153 -/
  | xor (rd rs1 rs2 : RegIdx)
  /-- R154 -/
  | srl (rd rs1 rs2 : RegIdx)
  /-- R155 -/
  | sra (rd rs1 rs2 : RegIdx)
  /-- R156 -/
  | or (rd rs1 rs2 : RegIdx)
  /-- R157 -/
  | and (rd rs1 rs2 : RegIdx)
  /-- R182 -/
  | halt
  deriving DecidableEq, Repr

/-- R13, R69: the 38 decoded instruction classes, the dispatch key that the ROB, the RS, the LSQ and the ALU carry. -/
inductive OpClass where
  | lui | auipc | jal | jalr | beq | bne | blt | bge | bltu | bgeu
  | lb | lh | lw | lbu | lhu | sb | sh | sw | addi | slti
  | sltiu | xori | ori | andi | slli | srli | srai | add | sub | sll
  | slt | sltu | xor | srl | sra | or | and | halt
  deriving DecidableEq, Repr

/-- R13: the two issue destinations. -/
inductive IssueUnit where
  | rs
  | lsq
  deriving DecidableEq, Repr

/-- The class an instruction decodes to. -/
def Instr.cls : Instr → OpClass
  | .lui _ _ => .lui
  | .auipc _ _ => .auipc
  | .jal _ _ => .jal
  | .jalr _ _ _ => .jalr
  | .beq _ _ _ => .beq
  | .bne _ _ _ => .bne
  | .blt _ _ _ => .blt
  | .bge _ _ _ => .bge
  | .bltu _ _ _ => .bltu
  | .bgeu _ _ _ => .bgeu
  | .lb _ _ _ => .lb
  | .lh _ _ _ => .lh
  | .lw _ _ _ => .lw
  | .lbu _ _ _ => .lbu
  | .lhu _ _ _ => .lhu
  | .sb _ _ _ => .sb
  | .sh _ _ _ => .sh
  | .sw _ _ _ => .sw
  | .addi _ _ _ => .addi
  | .slti _ _ _ => .slti
  | .sltiu _ _ _ => .sltiu
  | .xori _ _ _ => .xori
  | .ori _ _ _ => .ori
  | .andi _ _ _ => .andi
  | .slli _ _ _ => .slli
  | .srli _ _ _ => .srli
  | .srai _ _ _ => .srai
  | .add _ _ _ => .add
  | .sub _ _ _ => .sub
  | .sll _ _ _ => .sll
  | .slt _ _ _ => .slt
  | .sltu _ _ _ => .sltu
  | .xor _ _ _ => .xor
  | .srl _ _ _ => .srl
  | .sra _ _ _ => .sra
  | .or _ _ _ => .or
  | .and _ _ _ => .and
  | .halt => .halt

end Sys2Proof
end

