-- ==== Sys2Proof/WellFormed.lean ====
section
/-! DEFINITION. Which instructions have an encoding (spec/30_encoding.md R64, R66, R70). Every register field and
every 5-, 12- and 20-bit immediate is encodable, so three things are checked: a branch's and a jal's offset is
even, and an addi is not the one whose word is the halt sentinel. -/

namespace Sys2Proof

/-- R66: imm_B and imm_J end in an implicit 0 bit. -/
def evenOffset {n : Nat} (off : BitVec n) : Bool :=
  !off.getLsbD 0

/-- R70: `addi x10, x10, 255` is no addi: its word is HALT_WORD. -/
def notHaltShaped (rd rs1 : RegIdx) (imm : BitVec 12) : Bool :=
  !(rd == 10#5 && rs1 == 10#5 && imm == 255#12)

/-- The instruction has a word that decodes to it. -/
def Instr.wellFormed : Instr → Bool
  | .lui _ _ => true
  | .auipc _ _ => true
  | .jal _ off => evenOffset off
  | .jalr _ _ _ => true
  | .beq _ _ off => evenOffset off
  | .bne _ _ off => evenOffset off
  | .blt _ _ off => evenOffset off
  | .bge _ _ off => evenOffset off
  | .bltu _ _ off => evenOffset off
  | .bgeu _ _ off => evenOffset off
  | .lb _ _ _ => true
  | .lh _ _ _ => true
  | .lw _ _ _ => true
  | .lbu _ _ _ => true
  | .lhu _ _ _ => true
  | .sb _ _ _ => true
  | .sh _ _ _ => true
  | .sw _ _ _ => true
  | .addi rd rs1 imm => notHaltShaped rd rs1 imm
  | .slti _ _ _ => true
  | .sltiu _ _ _ => true
  | .xori _ _ _ => true
  | .ori _ _ _ => true
  | .andi _ _ _ => true
  | .slli _ _ _ => true
  | .srli _ _ _ => true
  | .srai _ _ _ => true
  | .add _ _ _ => true
  | .sub _ _ _ => true
  | .sll _ _ _ => true
  | .slt _ _ _ => true
  | .sltu _ _ _ => true
  | .xor _ _ _ => true
  | .srl _ _ _ => true
  | .sra _ _ _ => true
  | .or _ _ _ => true
  | .and _ _ _ => true
  | .halt => true

end Sys2Proof
end

