-- ==== Sys2Proof/Decode.lean ====
section
/-! DEFINITION. Encoding and decode (spec/30_encoding.md). A word's fields (R65), its immediates (R66), the class
table (R69) with the full instruction ids (R67), decode (R71), total on every word and on every list of bytes, and
the encoder, written from the same format table (R64). -/

namespace Sys2Proof

/-! ### Fields of a word (R65) and the immediates' bits (R66) -/

namespace Field

/-- R65: `opcode = w[6:0]`. -/
def opcode (w : Word) : BitVec 7 := w.extractLsb' 0 7

/-- R65: `rd = w[11:7]`. -/
def rd (w : Word) : RegIdx := w.extractLsb' 7 5

/-- R65: `funct3 = w[14:12]`. -/
def funct3 (w : Word) : BitVec 3 := w.extractLsb' 12 3

/-- R65: `rs1 = w[19:15]`. -/
def rs1 (w : Word) : RegIdx := w.extractLsb' 15 5

/-- R65: `rs2 = w[24:20]`. -/
def rs2 (w : Word) : RegIdx := w.extractLsb' 20 5

/-- R65: `shamt = w[24:20]`. -/
def shamt (w : Word) : BitVec 5 := w.extractLsb' 20 5

/-- R65: `funct7 = w[31:25]`. -/
def funct7 (w : Word) : BitVec 7 := w.extractLsb' 25 7

/-- R66: the 12 bits of imm_I, `w[31:20]`. -/
def immI (w : Word) : BitVec 12 := w.extractLsb' 20 12

/-- R66: the 12 bits of imm_S, `w[31:25] ++ w[11:7]`. -/
def immS (w : Word) : BitVec 12 := w.extractLsb' 25 7 ++ w.extractLsb' 7 5

/-- R66: the 13 bits of imm_B, `w[31] ++ w[7] ++ w[30:25] ++ w[11:8] ++ 0b0`. -/
def immB (w : Word) : BitVec 13 :=
  w.extractLsb' 31 1 ++ w.extractLsb' 7 1 ++ w.extractLsb' 25 6 ++ w.extractLsb' 8 4 ++ 0#1

/-- R66: the upper 20 bits of imm_U, `w[31:12]`. -/
def immU (w : Word) : BitVec 20 := w.extractLsb' 12 20

/-- R66: the 21 bits of imm_J, `w[31] ++ w[19:12] ++ w[20] ++ w[30:21] ++ 0b0`. -/
def immJ (w : Word) : BitVec 21 :=
  w.extractLsb' 31 1 ++ w.extractLsb' 12 8 ++ w.extractLsb' 20 1 ++ w.extractLsb' 21 10 ++ 0#1

end Field

/-! ### The class table (R69) -/

/-- R64: the formats; `shiftImm` is the I format with funct7 and shamt, `fixed` is the whole word. -/
inductive Format where
  | r
  | i
  | shiftImm
  | s
  | b
  | u
  | j
  | fixed
  deriving DecidableEq, Repr

/-- One row of the table of R69. -/
structure ClassRow where
  format : Format
  opcode : BitVec 7
  funct3 : Option (BitVec 3)
  funct7 : Option (BitVec 7)
  fullId : Option (BitVec 11)
  unit : IssueUnit
  usesRs1 : Bool
  usesRs2 : Bool
  writesRd : Bool
  deriving DecidableEq, Repr

/-- R69, row by row. The halt sentinel has no full id (R67). -/
def OpClass.row : OpClass → ClassRow
  | .lui => ⟨.u, 0x37#7, none, none, some 0x037#11, .rs, false, false, true⟩
  | .auipc => ⟨.u, 0x17#7, none, none, some 0x017#11, .rs, false, false, true⟩
  | .jal => ⟨.j, 0x6F#7, none, none, some 0x06F#11, .rs, false, false, true⟩
  | .jalr => ⟨.i, 0x67#7, some 0#3, none, some 0x067#11, .rs, true, false, true⟩
  | .beq => ⟨.b, 0x63#7, some 0#3, none, some 0x063#11, .rs, true, true, false⟩
  | .bne => ⟨.b, 0x63#7, some 1#3, none, some 0x0E3#11, .rs, true, true, false⟩
  | .blt => ⟨.b, 0x63#7, some 4#3, none, some 0x263#11, .rs, true, true, false⟩
  | .bge => ⟨.b, 0x63#7, some 5#3, none, some 0x2E3#11, .rs, true, true, false⟩
  | .bltu => ⟨.b, 0x63#7, some 6#3, none, some 0x363#11, .rs, true, true, false⟩
  | .bgeu => ⟨.b, 0x63#7, some 7#3, none, some 0x3E3#11, .rs, true, true, false⟩
  | .lb => ⟨.i, 0x03#7, some 0#3, none, some 0x003#11, .lsq, true, false, true⟩
  | .lh => ⟨.i, 0x03#7, some 1#3, none, some 0x083#11, .lsq, true, false, true⟩
  | .lw => ⟨.i, 0x03#7, some 2#3, none, some 0x103#11, .lsq, true, false, true⟩
  | .lbu => ⟨.i, 0x03#7, some 4#3, none, some 0x203#11, .lsq, true, false, true⟩
  | .lhu => ⟨.i, 0x03#7, some 5#3, none, some 0x283#11, .lsq, true, false, true⟩
  | .sb => ⟨.s, 0x23#7, some 0#3, none, some 0x023#11, .lsq, true, true, false⟩
  | .sh => ⟨.s, 0x23#7, some 1#3, none, some 0x0A3#11, .lsq, true, true, false⟩
  | .sw => ⟨.s, 0x23#7, some 2#3, none, some 0x123#11, .lsq, true, true, false⟩
  | .addi => ⟨.i, 0x13#7, some 0#3, none, some 0x013#11, .rs, true, false, true⟩
  | .slti => ⟨.i, 0x13#7, some 2#3, none, some 0x113#11, .rs, true, false, true⟩
  | .sltiu => ⟨.i, 0x13#7, some 3#3, none, some 0x193#11, .rs, true, false, true⟩
  | .xori => ⟨.i, 0x13#7, some 4#3, none, some 0x213#11, .rs, true, false, true⟩
  | .ori => ⟨.i, 0x13#7, some 6#3, none, some 0x313#11, .rs, true, false, true⟩
  | .andi => ⟨.i, 0x13#7, some 7#3, none, some 0x393#11, .rs, true, false, true⟩
  | .slli => ⟨.shiftImm, 0x13#7, some 1#3, some 0x00#7, some 0x093#11, .rs, true, false, true⟩
  | .srli => ⟨.shiftImm, 0x13#7, some 5#3, some 0x00#7, some 0x293#11, .rs, true, false, true⟩
  | .srai => ⟨.shiftImm, 0x13#7, some 5#3, some 0x20#7, some 0x693#11, .rs, true, false, true⟩
  | .add => ⟨.r, 0x33#7, some 0#3, some 0x00#7, some 0x033#11, .rs, true, true, true⟩
  | .sub => ⟨.r, 0x33#7, some 0#3, some 0x20#7, some 0x433#11, .rs, true, true, true⟩
  | .sll => ⟨.r, 0x33#7, some 1#3, some 0x00#7, some 0x0B3#11, .rs, true, true, true⟩
  | .slt => ⟨.r, 0x33#7, some 2#3, some 0x00#7, some 0x133#11, .rs, true, true, true⟩
  | .sltu => ⟨.r, 0x33#7, some 3#3, some 0x00#7, some 0x1B3#11, .rs, true, true, true⟩
  | .xor => ⟨.r, 0x33#7, some 4#3, some 0x00#7, some 0x233#11, .rs, true, true, true⟩
  | .srl => ⟨.r, 0x33#7, some 5#3, some 0x00#7, some 0x2B3#11, .rs, true, true, true⟩
  | .sra => ⟨.r, 0x33#7, some 5#3, some 0x20#7, some 0x6B3#11, .rs, true, true, true⟩
  | .or => ⟨.r, 0x33#7, some 6#3, some 0x00#7, some 0x333#11, .rs, true, true, true⟩
  | .and => ⟨.r, 0x33#7, some 7#3, some 0x00#7, some 0x3B3#11, .rs, true, true, true⟩
  | .halt => ⟨.fixed, 0x13#7, none, none, none, .rs, false, false, false⟩

/-- R69, R104: the unit a class is issued to. -/
def OpClass.unit (c : OpClass) : IssueUnit := c.row.unit

/-- R67: the full instruction id, the composite decode key. -/
def OpClass.fullId (c : OpClass) : Option (BitVec 11) := c.row.fullId

/-- R67: the bits of `opcode | funct3 << 7 | fbit << 10` that a format lets into the id: funct3 in the I, S, B and R
formats, `w[30]` in the R format and the shift-immediates only. -/
def fullIdOfWord (fmt : Format) (w : Word) : BitVec 11 :=
  let f3 : BitVec 3 :=
    match fmt with
    | .u | .j | .fixed => 0#3
    | .r | .i | .shiftImm | .s | .b => Field.funct3 w
  let fbit : BitVec 1 :=
    match fmt with
    | .r | .shiftImm => w.extractLsb' 30 1
    | .i | .s | .b | .u | .j | .fixed => 0#1
  fbit ++ f3 ++ Field.opcode w

/-! ### Decode (R71) -/

/-- Why bytes or a word are no instruction: decode's `Unknown`, by name. -/
inductive DecodeReject where
  /-- fewer than the 4 bytes of R63 -/
  | truncated
  /-- R68: an opcode of no family -/
  | unknownOpcode (w : Word)
  /-- R71: a funct3 the family has no class for -/
  | unknownFunct3 (w : Word)
  /-- R71, R72: a funct7 that `fok` refuses -/
  | unknownFunct7 (w : Word)
  deriving DecidableEq, Repr

/-- R71 `fok`: the whole funct7 under STRICT_DECODE, its bit 5 only (bit 30 of the word) without. -/
def funct7Ok (strict : Bool) (f7 k : BitVec 7) : Bool :=
  if strict then f7 == k else f7.getLsbD 5 == k.getLsbD 5

/-- R71, opcode 0x63. -/
def decodeBranch (w : Word) : Except DecodeReject Instr :=
  let f3 := Field.funct3 w
  let a := Field.rs1 w
  let b := Field.rs2 w
  let off := Field.immB w
  if f3 = 0#3 then .ok (.beq a b off)
  else if f3 = 1#3 then .ok (.bne a b off)
  else if f3 = 4#3 then .ok (.blt a b off)
  else if f3 = 5#3 then .ok (.bge a b off)
  else if f3 = 6#3 then .ok (.bltu a b off)
  else if f3 = 7#3 then .ok (.bgeu a b off)
  else .error (.unknownFunct3 w)

/-- R71, opcode 0x03. -/
def decodeLoad (w : Word) : Except DecodeReject Instr :=
  let f3 := Field.funct3 w
  let d := Field.rd w
  let a := Field.rs1 w
  let imm := Field.immI w
  if f3 = 0#3 then .ok (.lb d a imm)
  else if f3 = 1#3 then .ok (.lh d a imm)
  else if f3 = 2#3 then .ok (.lw d a imm)
  else if f3 = 4#3 then .ok (.lbu d a imm)
  else if f3 = 5#3 then .ok (.lhu d a imm)
  else .error (.unknownFunct3 w)

/-- R71, opcode 0x23. -/
def decodeStore (w : Word) : Except DecodeReject Instr :=
  let f3 := Field.funct3 w
  let a := Field.rs1 w
  let b := Field.rs2 w
  let imm := Field.immS w
  if f3 = 0#3 then .ok (.sb a b imm)
  else if f3 = 1#3 then .ok (.sh a b imm)
  else if f3 = 2#3 then .ok (.sw a b imm)
  else .error (.unknownFunct3 w)

/-- R71, opcode 0x13. -/
def decodeOpImm (strict : Bool) (w : Word) : Except DecodeReject Instr :=
  let f3 := Field.funct3 w
  let f7 := Field.funct7 w
  let d := Field.rd w
  let a := Field.rs1 w
  let imm := Field.immI w
  let sh := Field.shamt w
  if f3 = 0#3 then .ok (.addi d a imm)
  else if f3 = 2#3 then .ok (.slti d a imm)
  else if f3 = 3#3 then .ok (.sltiu d a imm)
  else if f3 = 4#3 then .ok (.xori d a imm)
  else if f3 = 6#3 then .ok (.ori d a imm)
  else if f3 = 7#3 then .ok (.andi d a imm)
  else if f3 = 1#3 then
    if funct7Ok strict f7 0x00#7 then .ok (.slli d a sh) else .error (.unknownFunct7 w)
  else if funct7Ok strict f7 0x00#7 then .ok (.srli d a sh)
  else if funct7Ok strict f7 0x20#7 then .ok (.srai d a sh)
  else .error (.unknownFunct7 w)

/-- R71, opcode 0x33: the class of R69 with this funct3 and a funct7 that `fok` accepts. -/
def decodeOp (strict : Bool) (w : Word) : Except DecodeReject Instr :=
  let f3 := Field.funct3 w
  let f7 := Field.funct7 w
  let d := Field.rd w
  let a := Field.rs1 w
  let b := Field.rs2 w
  let plain := funct7Ok strict f7 0x00#7
  let alt := funct7Ok strict f7 0x20#7
  if f3 = 0#3 then
    if plain then .ok (.add d a b) else if alt then .ok (.sub d a b) else .error (.unknownFunct7 w)
  else if f3 = 5#3 then
    if plain then .ok (.srl d a b) else if alt then .ok (.sra d a b) else .error (.unknownFunct7 w)
  else if plain then
    if f3 = 1#3 then .ok (.sll d a b)
    else if f3 = 2#3 then .ok (.slt d a b)
    else if f3 = 3#3 then .ok (.sltu d a b)
    else if f3 = 4#3 then .ok (.xor d a b)
    else if f3 = 6#3 then .ok (.or d a b)
    else .ok (.and d a b)
  else .error (.unknownFunct7 w)

/-- R71 (R70 first: the whole word against HALT_WORD). Total; `error` is the spec's `Unknown`. -/
def decodeWord (cfg : Config) (w : Word) : Except DecodeReject Instr :=
  let op := Field.opcode w
  if w = cfg.haltWord then .ok .halt
  else if op = 0x37#7 then .ok (.lui (Field.rd w) (Field.immU w))
  else if op = 0x17#7 then .ok (.auipc (Field.rd w) (Field.immU w))
  else if op = 0x6F#7 then .ok (.jal (Field.rd w) (Field.immJ w))
  else if op = 0x67#7 then
    if Field.funct3 w = 0#3 then .ok (.jalr (Field.rd w) (Field.rs1 w) (Field.immI w))
    else .error (.unknownFunct3 w)
  else if op = 0x63#7 then decodeBranch w
  else if op = 0x03#7 then decodeLoad w
  else if op = 0x23#7 then decodeStore w
  else if op = 0x13#7 then decodeOpImm cfg.strictDecode w
  else if op = 0x33#7 then decodeOp cfg.strictDecode w
  else .error (.unknownOpcode w)

/-- R43, R63: the little-endian word of four bytes, the first the least significant. -/
def wordOfBytes (b0 b1 b2 b3 : Byte) : Word := b3 ++ b2 ++ b1 ++ b0

/-- The byte of a word at offset `k` (R43: `v[8k+7 : 8k]`). -/
def byteOfWord (w : Word) (k : Nat) : Byte := w.extractLsb' (8 * k) 8

/-- Decode at the head of a list of bytes: an instruction is one 32-bit word, little-endian (R63). -/
def decodeBytes (cfg : Config) : List Byte → Except DecodeReject (Instr × List Byte)
  | b0 :: b1 :: b2 :: b3 :: rest =>
    match decodeWord cfg (wordOfBytes b0 b1 b2 b3) with
    | .ok i => .ok (i, rest)
    | .error e => .error e
  | _ => .error .truncated

/-! ### The encoder (R64) -/

/-- R64, R format. -/
def encodeR (f7 : BitVec 7) (f3 : BitVec 3) (op : BitVec 7) (rd rs1 rs2 : RegIdx) : Word :=
  f7 ++ rs2 ++ rs1 ++ f3 ++ rd ++ op

/-- R64, I format. -/
def encodeI (f3 : BitVec 3) (op : BitVec 7) (rd rs1 : RegIdx) (imm : BitVec 12) : Word :=
  imm ++ rs1 ++ f3 ++ rd ++ op

/-- R64, S format. -/
def encodeS (f3 : BitVec 3) (op : BitVec 7) (rs1 rs2 : RegIdx) (imm : BitVec 12) : Word :=
  imm.extractLsb' 5 7 ++ rs2 ++ rs1 ++ f3 ++ imm.extractLsb' 0 5 ++ op

/-- R64, B format. -/
def encodeB (f3 : BitVec 3) (op : BitVec 7) (rs1 rs2 : RegIdx) (off : BitVec 13) : Word :=
  off.extractLsb' 12 1 ++ off.extractLsb' 5 6 ++ rs2 ++ rs1 ++ f3 ++ off.extractLsb' 1 4 ++
    off.extractLsb' 11 1 ++ op

/-- R64, U format. -/
def encodeU (op : BitVec 7) (rd : RegIdx) (imm : BitVec 20) : Word :=
  imm ++ rd ++ op

/-- R64, J format. -/
def encodeJ (op : BitVec 7) (rd : RegIdx) (off : BitVec 21) : Word :=
  off.extractLsb' 20 1 ++ off.extractLsb' 1 10 ++ off.extractLsb' 11 1 ++ off.extractLsb' 12 8 ++ rd ++ op

/-- The word of an instruction, from R64 and the opcode, funct3 and funct7 of R69. -/
def encode : Instr → Word
  | .lui rd imm => encodeU 0x37#7 rd imm
  | .auipc rd imm => encodeU 0x17#7 rd imm
  | .jal rd off => encodeJ 0x6F#7 rd off
  | .jalr rd rs1 imm => encodeI 0#3 0x67#7 rd rs1 imm
  | .beq rs1 rs2 off => encodeB 0#3 0x63#7 rs1 rs2 off
  | .bne rs1 rs2 off => encodeB 1#3 0x63#7 rs1 rs2 off
  | .blt rs1 rs2 off => encodeB 4#3 0x63#7 rs1 rs2 off
  | .bge rs1 rs2 off => encodeB 5#3 0x63#7 rs1 rs2 off
  | .bltu rs1 rs2 off => encodeB 6#3 0x63#7 rs1 rs2 off
  | .bgeu rs1 rs2 off => encodeB 7#3 0x63#7 rs1 rs2 off
  | .lb rd rs1 imm => encodeI 0#3 0x03#7 rd rs1 imm
  | .lh rd rs1 imm => encodeI 1#3 0x03#7 rd rs1 imm
  | .lw rd rs1 imm => encodeI 2#3 0x03#7 rd rs1 imm
  | .lbu rd rs1 imm => encodeI 4#3 0x03#7 rd rs1 imm
  | .lhu rd rs1 imm => encodeI 5#3 0x03#7 rd rs1 imm
  | .sb rs1 rs2 imm => encodeS 0#3 0x23#7 rs1 rs2 imm
  | .sh rs1 rs2 imm => encodeS 1#3 0x23#7 rs1 rs2 imm
  | .sw rs1 rs2 imm => encodeS 2#3 0x23#7 rs1 rs2 imm
  | .addi rd rs1 imm => encodeI 0#3 0x13#7 rd rs1 imm
  | .slti rd rs1 imm => encodeI 2#3 0x13#7 rd rs1 imm
  | .sltiu rd rs1 imm => encodeI 3#3 0x13#7 rd rs1 imm
  | .xori rd rs1 imm => encodeI 4#3 0x13#7 rd rs1 imm
  | .ori rd rs1 imm => encodeI 6#3 0x13#7 rd rs1 imm
  | .andi rd rs1 imm => encodeI 7#3 0x13#7 rd rs1 imm
  | .slli rd rs1 shamt => encodeR 0x00#7 1#3 0x13#7 rd rs1 shamt
  | .srli rd rs1 shamt => encodeR 0x00#7 5#3 0x13#7 rd rs1 shamt
  | .srai rd rs1 shamt => encodeR 0x20#7 5#3 0x13#7 rd rs1 shamt
  | .add rd rs1 rs2 => encodeR 0x00#7 0#3 0x33#7 rd rs1 rs2
  | .sub rd rs1 rs2 => encodeR 0x20#7 0#3 0x33#7 rd rs1 rs2
  | .sll rd rs1 rs2 => encodeR 0x00#7 1#3 0x33#7 rd rs1 rs2
  | .slt rd rs1 rs2 => encodeR 0x00#7 2#3 0x33#7 rd rs1 rs2
  | .sltu rd rs1 rs2 => encodeR 0x00#7 3#3 0x33#7 rd rs1 rs2
  | .xor rd rs1 rs2 => encodeR 0x00#7 4#3 0x33#7 rd rs1 rs2
  | .srl rd rs1 rs2 => encodeR 0x00#7 5#3 0x33#7 rd rs1 rs2
  | .sra rd rs1 rs2 => encodeR 0x20#7 5#3 0x33#7 rd rs1 rs2
  | .or rd rs1 rs2 => encodeR 0x00#7 6#3 0x33#7 rd rs1 rs2
  | .and rd rs1 rs2 => encodeR 0x00#7 7#3 0x33#7 rd rs1 rs2
  | .halt => Config.core.haltWord

/-! ### The word of an opcode table row -/

/-- The instruction decode reads from a word of the opcode table, numbered as the table numbers its bits: bit 0 is
the least significant bit of the one 32-bit word, every bit from `nbits` up is 0, and the word is laid out as the
hardware stores it, little-endian. -/
def decodeTableWord (nbits w : Nat) : Option Instr :=
  let v : Word := BitVec.ofNat 32 (w % 2 ^ nbits)
  match decodeBytes Config.core [byteOfWord v 0, byteOfWord v 1, byteOfWord v 2, byteOfWord v 3] with
  | .ok (i, _) => some i
  | .error _ => none

end Sys2Proof
end

