-- ==== Sys2Proof/Machine/State.lean ====
section
/-! DEFINITION. The state of every unit (spec/10_state.md), as plain data, and its value at reset (R37). A latch that
the spec gives a `valid` bit is an `Option` here: `none` is `valid = false`, whose other fields no rule reads
(spec/93_implementation_defined.md I16). -/

namespace Sys2Proof.Machine

/-! ### Index and enumeration types (R13) -/

/-- R13: `RobIdx = 0..ROB_SIZE-1`. -/
abbrev RobIdx := Fin robSize

/-- R13: `RsIdx = 0..RS_SIZE-1`. -/
abbrev RsIdx := Fin rsSize

/-- R13: `LsqIdx = 0..LSQ_SIZE-1`. -/
abbrev LsqIdx := Fin lsqSize

/-- R13, R25: the life of a ROB entry. -/
inductive RobState where
  | empty
  | issued
  | executing
  | readyToCommit
  deriving DecidableEq, Repr

/-- R13, R118: the life of an RS slot and of an LSQ entry. -/
inductive SlotState where
  | empty
  | awaitingOperands
  | ready
  deriving DecidableEq, Repr

/-- R13: `Free → Busy_1 → Busy_2 → Free` (MEM_LATENCY = 2). -/
inductive MemState where
  | free
  | busy1
  | busy2
  deriving DecidableEq, Repr

/-- R13: an operand the instruction does not use, a captured value, or the ROB entry whose result it waits for. -/
inductive Operand where
  | none
  | val (v : Word)
  | tag (q : RobIdx)
  deriving DecidableEq, Repr

/-- R44: the widths a data access can have. -/
inductive Width where
  | byte
  | half
  | word
  deriving DecidableEq, Repr

/-! ### Memory (R38): the flat byte array as a sparse list -/

/-- R38: the byte array, as (address, byte) pairs in one canonical form; an address the list does not name holds
UNLOADED_BYTE (R40). -/
abbrev Memory := List Host.Cell

/-- The addresses rise strictly from at least `lo`, stay below 2^32, and no entry holds what an unlisted address
reads as. -/
def Memory.wfFrom : Nat → Memory → Bool
  | _, [] => true
  | lo, (k, b) :: rest => decide (lo ≤ k) && decide (k < 2 ^ 32) && b != unloadedByte && Memory.wfFrom (k + 1) rest

/-- The canonical form of memory: equal memories are equal lists. -/
def Memory.wf (m : Memory) : Bool := Memory.wfFrom 0 m

/-! ### Register File (R14, R16) -/

/-- R14, R16: the registers and the dependency-tracking table. -/
structure RegFile where
  value : Vector Word nRegs
  busy : Vector Bool nRegs
  producer : Vector RobIdx nRegs
  deriving DecidableEq, Repr

/-! ### Central Schedule Unit (R17, R20 to R27) -/

/-- R23: one reorder buffer entry. -/
structure RobEntry where
  state : RobState
  word : Word
  cls : OpClass
  pc : Addr
  hasRd : Bool
  rd : RegIdx
  value : Word
  specNext : Addr
  pcReady : Bool
  resolvedPc : Addr
  mismatch : Bool
  deriving DecidableEq, Repr

/-- R26: the issue broadcast latch. -/
structure IssueLatch where
  unit : IssueUnit
  cls : OpClass
  hasRd : Bool
  rd : RegIdx
  op1 : Operand
  op2 : Operand
  imm : Word
  shamt : BitVec 5
  pc : Addr
  specNext : Addr
  rob : RobIdx
  deriving DecidableEq, Repr

/-- R27: the commit broadcast latch. -/
structure CommitLatch where
  rob : RobIdx
  hasRd : Bool
  rd : RegIdx
  value : Word
  deriving DecidableEq, Repr

/-- R17, R20 to R27: the CSU's program counters, control registers, reorder buffer and latches. -/
structure Csu where
  specPc : Addr
  archPc : Addr
  flushReq : Bool
  jalrWait : Bool
  haltSignal : Word
  rob : Vector RobEntry robSize
  robHead : RobIdx
  robTail : RobIdx
  robCount : Nat
  issue : Option IssueLatch
  commit : Option CommitLatch
  deriving DecidableEq, Repr

/-! ### Reservation Station (R28, R29) -/

/-- R28: one slot. -/
structure RsSlot where
  state : SlotState
  cls : OpClass
  op1 : Operand
  op2 : Operand
  imm : Word
  shamt : BitVec 5
  pc : Addr
  rob : RobIdx
  deriving DecidableEq, Repr

/-- R29: the record on its way to the ALU. -/
structure DispatchLatch where
  cls : OpClass
  a : Word
  b : Word
  imm : Word
  shamt : BitVec 5
  pc : Addr
  rob : RobIdx
  deriving DecidableEq, Repr

/-- R28, R29. -/
structure ResStation where
  slot : Vector RsSlot rsSize
  dispatch : Option DispatchLatch
  deriving DecidableEq, Repr

/-! ### Load/Store Queue (R30, R31) -/

/-- R30: one entry. -/
structure LsqEntry where
  state : SlotState
  cls : OpClass
  op1 : Operand
  op2 : Operand
  imm : Word
  rob : RobIdx
  deriving DecidableEq, Repr

/-- R31: a memory request; `type` is the 4-bit code of R48. -/
structure MemRequest where
  type : BitVec 4
  signed : Bool
  addr : Addr
  data : Word
  rob : RobIdx
  deriving DecidableEq, Repr

/-- R30, R31. -/
structure Lsq where
  entry : Vector LsqEntry lsqSize
  head : LsqIdx
  tail : LsqIdx
  count : Nat
  req : Option MemRequest
  deriving DecidableEq, Repr

/-! ### ALU (R32) -/

/-- R32: the one-cycle output latch's contents. -/
structure AluOut where
  rob : RobIdx
  value : Word
  nextPc : Addr
  deriving DecidableEq, Repr

/-- R32: the ALU holds its output latch and nothing else. -/
structure Alu where
  out : Option AluOut
  deriving DecidableEq, Repr

/-! ### Memory unit (R33) -/

/-- R33: the pre-write bytes of one uncommitted store. -/
structure Playback where
  ts : Nat
  addr : Addr
  len : Width
  old : List Byte
  deriving DecidableEq, Repr

/-- R33: the result latch's contents. -/
structure MemOut where
  rob : RobIdx
  value : Word
  deriving DecidableEq, Repr

/-- R33. -/
structure MemUnit where
  bytes : Memory
  state : MemState
  pending : Option MemRequest
  out : Option MemOut
  playback : Vector (Option Playback) robSize
  wcount : Nat
  deriving DecidableEq, Repr

/-! ### The check of R61, the model's own state -/

/-- NOT THE SPEC'S STATE (log entry 7): what R61 makes a model keep to refuse a program it says to refuse. `stored`
holds the addresses whose byte a committed store changed; `pending` those an uncommitted store changed, with the
store's ROB slot. -/
structure AdmitGuard where
  pending : List (RobIdx × Nat)
  stored : List Nat
  deriving DecidableEq, Repr

/-! ### Faults and refusals -/

/-- Which storage cell is staged twice (R81). -/
inductive StagedCell where
  | robEntry (i : RobIdx)
  | specPc
  | lsqEntry (i : LsqIdx)
  | playback (i : RobIdx)
  deriving DecidableEq, Repr

/-- What an internal consistency check found (R190, code 7). -/
inductive Inconsistency where
  /-- R101: a completion for an entry that is not Executing -/
  | completion (rob : RobIdx)
  /-- R133: a memory-class record given to the ALU -/
  | aluMemoryClass (rob : RobIdx)
  /-- R24: a broken ROB pointer invariant. R190 says that "the entry" is recorded and the spec does not say which one
  an invariant of the whole buffer names; DESIGN CHOICE: none is (log entry 8) -/
  | robPointers
  /-- log entry 6: a Ready record that still holds a tag -/
  | readyWithTag (rob : RobIdx)
  /-- log entry 6: Memory is in Busy_2 with no request it can perform -/
  | busyNoRequest
  deriving DecidableEq, Repr

/-- R190: the host faults, codes 1 to 7 in this order, with the information each records. Each stops the run, as on
the hardware (safe); only the first is reachable in a run of the spec. -/
inductive HostFault where
  /-- code 1, raised by the CSU (R105): the word at the fetch PC is Unknown, on the architectural path -/
  | illegalInstruction (pc : Addr) (word : Word)
  /-- code 2, raised by Memory (R51): a request arrives while it is Busy -/
  | memBusy (req : MemRequest)
  /-- code 3, raised by Memory (R48): a request with an invalid type code -/
  | badRequest (type : BitVec 4)
  /-- code 4, raised by the RS (R121): it must accept and has no Empty slot -/
  | rsCapacity (rec : IssueLatch)
  /-- code 5, raised by the LSQ (R128): it must accept and is full -/
  | lsqCapacity (rec : IssueLatch)
  /-- code 6 (R81): a cell is staged twice in one tick -/
  | doubleWrite (cell : StagedCell)
  /-- code 7 (R24, R101, R133): an internal consistency check fails -/
  | inconsistent (what : Inconsistency)
  deriving DecidableEq, Repr

/-- R34, R87, R83: the driver's status. -/
inductive RunStatus where
  | running
  | halted (code : BitVec 8)
  | faulted (kind : HostFault)
  | capped
  deriving DecidableEq, Repr

/-- Why a step stops. -/
inductive Fault where
  /-- raised by a unit's step of a tick (R83, R190): the run ends, as the hardware's does; safe -/
  | host (k : HostFault)
  /-- raised by `step` in a state whose run has ended (R87): there is no further tick; safe (log entry 2) -/
  | runEnded (status : RunStatus)
  deriving DecidableEq, Repr

/-- Why a step has no next state although the hardware may go on. -/
inductive Refusal where
  /-- raised by `exec`'s arm of an instruction that has no meaning yet; safe -/
  | notModelled (mnemonic : String)
  /-- raised by a tick (R61, decision D24): the architectural path fetches, at `pc`, a byte that an older store
  changed; the spec says that a model must refuse such a program; safe -/
  | storedCodeFetched (pc : Addr)
  /-- raised by `stepWith` only, of a machine whose MEM_BYTES or ADDR_WIDTH is smaller than this hardware's (I4): the
  tick fetches from, or accesses, an address outside that memory, of which "no rule says" what it does; safe -/
  | addressOutsideMemory (a : Addr)
  deriving DecidableEq, Repr

/-! ### The whole state -/

/-- R34. -/
structure Driver where
  cycle : Nat
  status : RunStatus
  deriving DecidableEq, Repr

/-- The state of every unit (R78, R80: each field is its unit's own). -/
structure State where
  csu : Csu
  rf : RegFile
  rs : ResStation
  lsq : Lsq
  alu : Alu
  mem : MemUnit
  drv : Driver
  guard : AdmitGuard
  deriving DecidableEq, Repr

/-! ### Reset (R37) -/

/-- R98, R99: the Empty entry, its other fields 0 (no rule reads them; the class of an Empty entry is any). -/
def RobEntry.empty : RobEntry where
  state := .empty
  word := 0#32
  cls := .lui
  pc := 0#32
  hasRd := false
  rd := 0#5
  value := 0#32
  specNext := 0#32
  pcReady := false
  resolvedPc := 0#32
  mismatch := false

/-- R119: the Empty slot, its other fields 0 or None. -/
def RsSlot.empty : RsSlot where
  state := .empty
  cls := .lui
  op1 := .none
  op2 := .none
  imm := 0#32
  shamt := 0#5
  pc := 0#32
  rob := 0

/-- R126: the Empty entry, its other fields 0 or None. -/
def LsqEntry.empty : LsqEntry where
  state := .empty
  cls := .lui
  op1 := .none
  op2 := .none
  imm := 0#32
  rob := 0

/-- `n` bytes from address `lo` on, each `b`. -/
def Memory.fillFrom (b : Byte) : Nat → Nat → Memory
  | _, 0 => []
  | lo, n + 1 => (lo, b) :: Memory.fillFrom b (lo + 1) n

/-- R40: memory before the image is loaded, every byte `b`. At this hardware's UNLOADED_BYTE it lists nothing; at
another it lists every address. -/
def Memory.unloaded (b : Byte) : Memory :=
  if b = unloadedByte then [] else Memory.fillFrom b 0 (2 ^ 32)

/-- R37: every field at its reset value, with the parameters of `cfg`. No image is loaded. -/
def State.resetWith (cfg : Config) : State where
  csu :=
    { specPc := cfg.resetPc
      archPc := cfg.resetPc
      flushReq := false
      jalrWait := false
      haltSignal := 0#32
      rob := Vector.replicate robSize RobEntry.empty
      robHead := 0
      robTail := 0
      robCount := 0
      issue := none
      commit := none }
  rf :=
    { value := (Vector.replicate nRegs cfg.regReset).set 0 0#32
      busy := Vector.replicate nRegs false
      producer := Vector.replicate nRegs 0 }
  rs :=
    { slot := Vector.replicate rsSize RsSlot.empty
      dispatch := none }
  lsq :=
    { entry := Vector.replicate lsqSize LsqEntry.empty
      head := 0
      tail := 0
      count := 0
      req := none }
  alu := { out := none }
  mem :=
    { bytes := Memory.unloaded cfg.unloadedByte
      state := .free
      pending := none
      out := none
      playback := Vector.replicate robSize none
      wcount := 0 }
  drv := { cycle := 0, status := .running }
  guard := { pending := [], stored := [] }

/-- R37: the machine right after reset, with the values R7 gives this hardware. -/
def State.reset : State := State.resetWith Config.core

end Sys2Proof.Machine
end

