-- ==== Sys2Proof/Machine/Ops.lean ====
section
/-! DEFINITION. The shared operations over memory and registers (spec/20_memory.md, spec/41_register_file.md R89),
the search for the first slot of a kind, and the raising of a host fault (spec/60_exceptions.md R190, R192). The
core takes no exception and returns from none (R185 to R188): what stands in their place is the raising of a host
fault here, and the misprediction flush, which each unit's file defines for its own state (R85). -/

namespace Sys2Proof.Machine

/-! ### Reading memory (R43, R44, R47) -/

/-- What the list names for address `n`, or UNLOADED_BYTE (R40). -/
def Memory.lookup : Memory → Nat → Byte
  | [], _ => unloadedByte
  | (k, b) :: rest, n => if k = n then b else Memory.lookup rest n

/-- R38: every address names a byte. -/
def Memory.read8 (m : Memory) (a : Addr) : Byte := Memory.lookup m a.toNat

/-- R43: `MemRead(addr, 2)`; addresses wrap modulo 2^32 (R39). -/
def Memory.read16 (m : Memory) (a : Addr) : BitVec 16 := m.read8 (a + 1#32) ++ m.read8 a

/-- R43: `MemRead(addr, 4)`. -/
def Memory.read32 (m : Memory) (a : Addr) : Word :=
  wordOfBytes (m.read8 a) (m.read8 (a + 1#32)) (m.read8 (a + 2#32)) (m.read8 (a + 3#32))

/-- R44: the number of bytes of a width. -/
def Width.bytes : Width → Nat
  | .byte => 1
  | .half => 2
  | .word => 4

/-- R44, R52: the value of a read, sign-extended for the signed loads and zero-extended for the others. -/
def Memory.load (m : Memory) (w : Width) (signed : Bool) (a : Addr) : Word :=
  match w, signed with
  | .byte, true => (m.read8 a).signExtend 32
  | .byte, false => (m.read8 a).setWidth 32
  | .half, true => (m.read16 a).signExtend 32
  | .half, false => (m.read16 a).setWidth 32
  | .word, _ => m.read32 a

/-- R52: the bytes at `a, a+1, ..., a+n-1`. -/
def Memory.readBytes (m : Memory) (a : Addr) (n : Nat) : List Byte :=
  (List.range n).map fun k => m.read8 (a + BitVec.ofNat 32 k)

/-! ### Writing memory (R43) -/

/-- Put one byte at address `n`, keeping the canonical form: the entry goes where UNLOADED_BYTE is written. -/
def Memory.put : Memory → Nat → Byte → Memory
  | [], n, b => if b = unloadedByte then [] else [(n, b)]
  | (k, c) :: rest, n, b =>
    if n < k then
      if b = unloadedByte then (k, c) :: rest else (n, b) :: (k, c) :: rest
    else if n = k then
      if b = unloadedByte then rest else (n, b) :: rest
    else (k, c) :: Memory.put rest n b

/-- Write one byte. -/
def Memory.write8 (m : Memory) (a : Addr) (b : Byte) : Memory := Memory.put m a.toNat b

/-- Write the bytes of a list at `a, a+1, ...` modulo 2^32. -/
def Memory.writeBytes (m : Memory) (a : Addr) : List Byte → Memory
  | [] => m
  | b :: rest => Memory.writeBytes (m.write8 a b) (a + 1#32) rest

/-- R43: the bytes a store of width `w` writes: `v[7:0], v[15:8], ...`. -/
def storeBytes (w : Width) (v : Word) : List Byte :=
  match w with
  | .byte => [byteOfWord v 0]
  | .half => [byteOfWord v 0, byteOfWord v 1]
  | .word => [byteOfWord v 0, byteOfWord v 1, byteOfWord v 2, byteOfWord v 3]

/-- R43: `MemWrite(addr, n, v)`. -/
def Memory.store (m : Memory) (w : Width) (a : Addr) (v : Word) : Memory :=
  m.writeBytes a (storeBytes w v)

/-! ### Registers (R10, R14, R89, R95) -/

/-- R14, R89: `x[r]`; register 0 reads as 0. -/
def RegFile.read (rf : RegFile) (r : RegIdx) : Word :=
  if r = 0#5 then 0#32 else rf.value[r.toNat]'r.isLt

/-- R16: whether an issued, not yet committed instruction will write `r`; register 0 is never tracked. -/
def RegFile.isBusy (rf : RegFile) (r : RegIdx) : Bool :=
  if r = 0#5 then false else rf.busy[r.toNat]'r.isLt

/-- R16: the ROB index recorded as the producer of `r`. -/
def RegFile.producerOf (rf : RegFile) (r : RegIdx) : RobIdx :=
  rf.producer[r.toNat]'r.isLt

/-- R10, R95: a value per register with `r`'s replaced; a write to register 0 is discarded. -/
def setReg {α : Type} (t : Vector α nRegs) (r : RegIdx) (v : α) : Vector α nRegs :=
  if r = 0#5 then t else t.set r.toNat v r.isLt

/-! ### The first index of a kind (R12 `first i in a..b such that P(i)`) -/

/-- The least index that satisfies `p`, or none. -/
def firstIdx {n : Nat} (p : Fin n → Bool) : Option (Fin n) := (List.finRange n).find? p

/-! ### Raising a host fault (R190, R192) -/

/-- R190: the code of each kind. -/
def HostFault.code : HostFault → Nat
  | .illegalInstruction _ _ => 1
  | .memBusy _ => 2
  | .badRequest _ => 3
  | .rsCapacity _ => 4
  | .lsqCapacity _ => 5
  | .doubleWrite _ => 6
  | .inconsistent _ => 7

/-- R192: of several faults raised in one tick, the one with the lowest code is reported. -/
def lowestFault : List HostFault → Option HostFault
  | [] => none
  | k :: rest =>
    match lowestFault rest with
    | none => some k
    | some j => if j.code < k.code then some j else some k

end Sys2Proof.Machine
end

