-- ==== Sys2Proof/Machine/Operands.lean ====
section
/-! DEFINITION. Operands: the sign-extended immediates (spec/30_encoding.md R66), the value of an operand descriptor
and readiness (spec/43_reservation_station.md R118, R119), snooping (R120), and the one addressing mode
(spec/47_load_store.md R171) with the memory request a load or store forms (spec/44_load_store_queue.md R127). -/

namespace Sys2Proof.Machine

/-! ### Immediates (R66) -/

/-- R66: imm_I and imm_S, sign-extended from 12 bits. -/
def immediate12 (imm : BitVec 12) : Word := imm.signExtend 32

/-- R66: imm_B, sign-extended from 13 bits. -/
def immediateB (off : BitVec 13) : Word := off.signExtend 32

/-- R66: imm_U, `w[31:12] ++ 0x000`. -/
def immediateU (imm : BitVec 20) : Word := imm ++ 0#12

/-- R66: imm_J, sign-extended from 21 bits. -/
def immediateJ (off : BitVec 21) : Word := off.signExtend 32

/-! ### Descriptors (R118, R119) -/

/-- R119: `val(Val(v)) = v`, `val(None) = 0`. A tag has no value: a record that still holds one is never sent on
(the checks of R119's and R126's dispatch raise Inconsistent first, log entry 6). -/
def Operand.value : Operand → Word
  | .none => 0#32
  | .val v => v
  | .tag _ => 0#32

/-- R118: resolved, or not required. -/
def Operand.resolved : Operand → Bool
  | .none => true
  | .val _ => true
  | .tag _ => false

/-- R118: the state of a record with these two operands. -/
def slotStateOf (o1 o2 : Operand) : SlotState :=
  if o1.resolved && o2.resolved then .ready else .awaitingOperands

/-! ### Snooping (R120) -/

/-- The value the ALU broadcasts in this tick for ROB entry `q`. -/
def aluBroadcast (out : Option AluOut) (q : RobIdx) : Option Word :=
  match out with
  | some r => if r.rob = q then some r.value else none
  | none => none

/-- The value Memory broadcasts in this tick for ROB entry `q` (R53). -/
def memBroadcast (out : Option MemOut) (q : RobIdx) : Option Word :=
  match out with
  | some r => if r.rob = q then some r.value else none
  | none => none

/-- R109 case 3b, R120: the result broadcast for `q` in this tick, the ALU's first. -/
def State.broadcast (s : State) (q : RobIdx) : Option Word :=
  match aluBroadcast s.alu.out q with
  | some v => some v
  | none => memBroadcast s.mem.out q

/-- R120 `snoopOp`: an operand that waits for a result broadcast in this tick takes its value. -/
def State.snoop (s : State) (o : Operand) : Operand :=
  match o with
  | .none => .none
  | .val v => .val v
  | .tag q =>
    match s.broadcast q with
    | some v => .val v
    | none => .tag q

/-! ### The addressing mode (R171) -/

/-- R127, R171: base plus displacement, modulo 2^32. -/
def effectiveAddr (base imm : Word) : Addr := base + imm

/-- R44, R127: the width a memory-class instruction moves; none for a class of the ALU. -/
def accessWidth : OpClass → Option Width
  | .lb | .lbu | .sb => some .byte
  | .lh | .lhu | .sh => some .half
  | .lw | .sw => some .word
  | .lui | .auipc | .jal | .jalr | .beq | .bne | .blt | .bge | .bltu | .bgeu => none
  | .addi | .slti | .sltiu | .xori | .ori | .andi | .slli | .srli | .srai => none
  | .add | .sub | .sll | .slt | .sltu | .xor | .srl | .sra | .or | .and | .halt => none

/-- R127: the stores, whose direction is Write. -/
def isStore : OpClass → Bool
  | .sb | .sh | .sw => true
  | .lb | .lbu | .lh | .lhu | .lw => false
  | .lui | .auipc | .jal | .jalr | .beq | .bne | .blt | .bge | .bltu | .bgeu => false
  | .addi | .slti | .sltiu | .xori | .ori | .andi | .slli | .srli | .srai => false
  | .add | .sub | .sll | .slt | .sltu | .xor | .srl | .sra | .or | .and | .halt => false

/-- R127: lb and lh read with sign extension. -/
def loadsSigned (c : OpClass) : Bool := c == .lb || c == .lh

/-- R48: `log2(width)` in bits 3:2 of the type code. -/
def Width.code : Width → BitVec 2
  | .byte => 0#2
  | .half => 1#2
  | .word => 2#2

/-- R127: the type code `(log2(n) << 2) | (1 if Read else 2)`. A class that is not memory-class, which the LSQ never
holds, gets the code of direction None, which Memory refuses (R48, log entry 6). -/
def requestType (c : OpClass) : BitVec 4 :=
  match accessWidth c with
  | some w => w.code ++ (if isStore c then 2#2 else 1#2)
  | none => 0#4

/-- R127: store data truncated to the width, zero above; 0 for a load. -/
def requestData (c : OpClass) (v : Word) : Word :=
  if isStore c then
    match accessWidth c with
    | some .byte => (v.setWidth 8).setWidth 32
    | some .half => (v.setWidth 16).setWidth 32
    | some .word => v
    | none => 0#32
  else 0#32

/-- R48: bits 1:0 of a type code. -/
inductive Direction where
  | none
  | read
  | write
  | invalid
  deriving DecidableEq, Repr

/-- R48. -/
def requestDirection (t : BitVec 4) : Direction :=
  if t.extractLsb' 0 2 = 0#2 then .none
  else if t.extractLsb' 0 2 = 1#2 then .read
  else if t.extractLsb' 0 2 = 2#2 then .write
  else .invalid

/-- R48: the width of a type code; 0b11 is invalid. -/
def requestWidth (t : BitVec 4) : Option Width :=
  if t.extractLsb' 2 2 = 0#2 then some .byte
  else if t.extractLsb' 2 2 = 1#2 then some .half
  else if t.extractLsb' 2 2 = 2#2 then some .word
  else none

/-- R48: a valid request reads or writes 1, 2 or 4 bytes. -/
def requestValid (t : BitVec 4) : Bool :=
  (requestDirection t == .read || requestDirection t == .write) && (requestWidth t).isSome

end Sys2Proof.Machine
end

