-- ==== Sys2Proof/Machine/MemoryUnit.lean ====
section
/-! DEFINITION. The Memory unit's step (spec/20_memory.md R47 to R57): the busy protocol, the access, the playback
records and their undoing. -/

namespace Sys2Proof.Machine

/-! ### Playback (R54 to R57) -/

/-- R56: undo one record, restoring the bytes it overwrote. -/
def undoOne (m : Memory) (r : Playback) : Memory := m.writeBytes r.addr r.old

/-- Insert a record among records in descending timestamp. -/
def insertByTs (r : Playback) : List Playback → List Playback
  | [] => [r]
  | x :: rest => if x.ts ≤ r.ts then r :: x :: rest else x :: insertByTs r rest

/-- R56: records in descending timestamp order. -/
def descendingTs : List Playback → List Playback
  | [] => []
  | r :: rest => insertByTs r (descendingTs rest)

/-- R56: every record undone "in reverse chronological order". -/
def undoAll (m : Memory) (rs : List Playback) : Memory := (descendingTs rs).foldl undoOne m

/-- The records of the ROB slots that `keep` admits. -/
def recordsWhere (u : MemUnit) (keep : RobIdx → Bool) : List Playback :=
  (List.finRange robSize).filterMap fun i => if keep i then u.playback[i] else none

/-- R57: the committed memory, every outstanding record undone. -/
def committedMemory (u : MemUnit) : Memory := undoAll u.bytes (recordsWhere u fun _ => true)

/-- Whether the commit latch names ROB slot `i`. -/
def commitsSlot (s : State) (i : RobIdx) : Bool :=
  match s.csu.commit with
  | some c => c.rob == i
  | none => false

/-! ### The access (R52) -/

/-- R52: Memory performs its pending request in this tick. -/
def memPerforming (s : State) : Option MemRequest :=
  if s.csu.flushReq then none
  else
    match s.mem.state with
    | .busy2 => s.mem.pending
    | .free | .busy1 => none

/-- R52: the result a performed request publishes: the value read, or 0 for a write (decision D39). -/
def memResult (m : Memory) (p : MemRequest) : MemOut :=
  { rob := p.rob
    value :=
      match requestDirection p.type, requestWidth p.type with
      | .read, some w => m.load w p.signed p.addr
      | .read, none => 0#32
      | .write, _ => 0#32
      | .none, _ => 0#32
      | .invalid, _ => 0#32 }

/-- R52: the width a performed request writes; none for a read. -/
def memWriteWidth (p : MemRequest) : Option Width :=
  match requestDirection p.type with
  | .write => requestWidth p.type
  | .none | .read | .invalid => none

/-- R52: the write of this tick, if there is one. -/
def memWriting (s : State) : Option (MemRequest × Width) :=
  match memPerforming s with
  | some p =>
    match memWriteWidth p with
    | some w => some (p, w)
    | none => none
  | none => none

/-- R52: the playback record of a write. -/
def playbackOf (u : MemUnit) (p : MemRequest) (w : Width) : Playback :=
  { ts := u.wcount
    addr := p.addr
    len := w
    old := u.bytes.readBytes p.addr w.bytes }

/-! ### The step (R49) -/

/-- R52, R56: the byte array. In a flush tick every record but the committing entry's is undone. -/
def memBytesNext (s : State) : Memory :=
  if s.csu.flushReq then undoAll s.mem.bytes (recordsWhere s.mem fun i => !commitsSlot s i)
  else
    match memWriting s with
    | some (p, w) => s.mem.bytes.store w p.addr p.data
    | none => s.mem.bytes

/-- R52, R55, R56: ROB slot `i`'s record. -/
def memPlaybackNext (s : State) (i : RobIdx) : Option Playback :=
  if s.csu.flushReq then none
  else
    match memWriting s with
    | some (p, w) =>
      if p.rob = i then some (playbackOf s.mem p w)
      else if commitsSlot s i then none else s.mem.playback[i]
    | none => if commitsSlot s i then none else s.mem.playback[i]

/-- R50 to R52, R56: the busy state machine. -/
def memStateNext (s : State) : MemState :=
  if s.csu.flushReq then .free
  else
    match s.mem.state with
    | .free => if s.lsq.req.isSome then .busy1 else .free
    | .busy1 => .busy2
    | .busy2 => .free

/-- R50, R52, R56: the accepted request. -/
def memPendingNext (s : State) : Option MemRequest :=
  if s.csu.flushReq then none
  else
    match s.mem.state with
    | .free => s.lsq.req
    | .busy1 => s.mem.pending
    | .busy2 => none

/-- R49, R52: the result latch. -/
def memOutNext (s : State) : Option MemOut :=
  match memPerforming s with
  | some p => some (memResult s.mem.bytes p)
  | none => none

/-- R49: the Memory unit's step. -/
def memNext (s : State) : MemUnit :=
  { bytes := memBytesNext s
    state := memStateNext s
    pending := memPendingNext s
    out := memOutNext s
    playback := Vector.ofFn (memPlaybackNext s)
    wcount := if (memWriting s).isSome then s.mem.wcount + 1 else s.mem.wcount }

/-- R33: what a poll of the Memory unit answers. -/
inductive PollStatus where
  | dataReady
  | busy
  | free
  deriving DecidableEq, Repr

/-- R33: "DataReady when `mem.out.valid`, otherwise Busy when `mem.state ≠ Free`, otherwise Free". -/
def MemUnit.poll (u : MemUnit) : PollStatus :=
  if u.out.isSome then .dataReady else if u.state = .free then .free else .busy

/-- R48, R51: a request while Busy is MemBusy, one with an invalid code is BadRequest; R81: a record that is both
written and discarded is staged twice; a Busy_2 with nothing to perform is Inconsistent (log entry 6). -/
def memFaults (s : State) : List HostFault :=
  if s.csu.flushReq then []
  else
    (match s.mem.state, s.lsq.req with
      | .free, some r => if requestValid r.type then [] else [.badRequest r.type]
      | .busy1, some r => [.memBusy r]
      | .busy2, some r => [.memBusy r]
      | .free, none => []
      | .busy1, none => []
      | .busy2, none => []) ++
    (match memWriting s with
      | some (p, _) => if commitsSlot s p.rob then [.doubleWrite (.playback p.rob)] else []
      | none => []) ++
    (match s.mem.state, s.mem.pending with
      | .busy2, some p => if requestValid p.type then [] else [.inconsistent .busyNoRequest]
      | .busy2, none => [.inconsistent .busyNoRequest]
      | .free, _ => []
      | .busy1, _ => [])

end Sys2Proof.Machine
end

