-- ==== Sys2Proof/Machine/Admission.lean ====
section
/-! DEFINITION. The programs a model must refuse (spec/20_memory.md R61, spec/70_reset_and_hazards.md R212, decision
D24): those whose architectural path fetches a byte that an older store changed. R61 gives no mechanism; the one
here is the model's own (log entry 7). It remembers which addresses the stores changed, and a tick is refused when
an instruction commits, or an unknown word is found on the architectural path, at an address where one of the four
bytes fetched is among those an older store changed. Every older store has committed by then (R113). -/

namespace Sys2Proof.Machine

/-- The addresses of the 4 bytes an instruction at `pc` is fetched from (R39, R47). -/
def fetchedAddrs (pc : Addr) : List Nat :=
  [pc.toNat, (pc + 1#32).toNat, (pc + 2#32).toNat, (pc + 3#32).toNat]

/-- The addresses at which bytes written at `a` differ from what memory holds there. -/
def changedFrom (m : Memory) (a : Addr) : List Byte → List Nat
  | [] => []
  | b :: rest =>
    if m.read8 a = b then changedFrom m (a + 1#32) rest
    else a.toNat :: changedFrom m (a + 1#32) rest

/-- The addresses that the store performed in this tick changes, with its ROB slot. -/
def changesNow (s : State) : List (RobIdx × Nat) :=
  match memWriting s with
  | some (p, w) => (changedFrom s.mem.bytes p.addr (storeBytes w p.data)).map fun n => (p.rob, n)
  | none => []

/-- The addresses changed by the store that the commit latch names. -/
def committingChanges (s : State) : List Nat :=
  (s.guard.pending.filter fun x => commitsSlot s x.1).map Prod.snd

/-- Put an address among those the committed stores changed, once. -/
def noteStored (known : List Nat) (n : Nat) : List Nat := if n ∈ known then known else n :: known

/-- The check's own state after the tick: a committed store's addresses are kept, a flushed one's dropped. -/
def guardNext (s : State) : AdmitGuard :=
  { stored := (committingChanges s).foldl noteStored s.guard.stored
    pending :=
      if s.csu.flushReq then []
      else changesNow s ++ s.guard.pending.filter fun x => !commitsSlot s x.1 }

/-- An instruction fetched at `pc` on the architectural path reads a byte that an older store changed. -/
def fetchesStored (s : State) (pc : Addr) : Bool :=
  (fetchedAddrs pc).any fun n => s.guard.stored.contains n || (committingChanges s).contains n

end Sys2Proof.Machine
end

