-- ==== Sys2Proof/Machine/Flags.lean ====
section
/-! DEFINITION. Conditions. The core has no flags or condition codes (spec/10_state.md R19): no instruction computes
or reads one. What stands here is the comparisons the set-less-than instructions and the branches make of two
registers directly (R9, spec/45_integer.md R134, spec/46_control_transfer.md R165 to R170). -/

namespace Sys2Proof.Machine

/-- R9 `<s`: signed comparison. -/
def lessSigned (a b : Word) : Bool := decide (a.toInt < b.toInt)

/-- R9 `<u`: unsigned comparison. -/
def lessUnsigned (a b : Word) : Bool := decide (a.toNat < b.toNat)

/-- R140, R141, R151, R152: `zext_32` of a comparison. -/
def boolWord (b : Bool) : Word := if b then 1#32 else 0#32

/-- R165. -/
def condBeq (a b : Word) : Bool := a == b

/-- R166. -/
def condBne (a b : Word) : Bool := a != b

/-- R167. -/
def condBlt (a b : Word) : Bool := lessSigned a b

/-- R168: `signed(a) ≥ signed(b)`. -/
def condBge (a b : Word) : Bool := decide (a.toInt ≥ b.toInt)

/-- R169. -/
def condBltu (a b : Word) : Bool := lessUnsigned a b

/-- R170: `unsigned(a) ≥ unsigned(b)`. -/
def condBgeu (a b : Word) : Bool := decide (a.toNat ≥ b.toNat)

end Sys2Proof.Machine
end

