-- ==== Sys2Proof/Machine/Alu.lean ====
section
/-! DEFINITION. The ALU (spec/45_integer.md, spec/46_control_transfer.md, spec/48_halt_and_system.md R182): the pure
function of R133, one definition per class with the result value and the resolved next PC its rule gives, and the
unit's step (R132). `a` is the value of rs1, `b` that of rs2, `imm` the class's immediate, `shamt` the word's bits
24:20 and `pc` the instruction's own address. -/

namespace Sys2Proof.Machine

/-- R133: the pair (value, next_pc). -/
structure AluResult where
  value : Word
  nextPc : Addr
  deriving DecidableEq, Repr

/-- R133: `next_pc = pc + 4` for every class whose rule does not say otherwise. -/
def sequential (pc : Addr) (value : Word) : AluResult := ⟨value, pc + 4#32⟩

/-- R136 `sra(v, n)`: a logical shift, then the sign bit replicated into the `n` highest bits. -/
def sra (v : Word) (n : BitVec 5) : Word :=
  (v >>> n.toNat) ||| (if v.getLsbD 31 && n != 0#5 then ~~~(0xFFFFFFFF#32 >>> n.toNat) else 0#32)

/-- R135: a register shift uses the low 5 bits of operand 2. -/
def shiftAmount (b : Word) : BitVec 5 := b.extractLsb' 0 5

/-! ### Upper immediates and the nine immediate operations -/

/-- R137 -/
def aluLui (imm : Word) (pc : Addr) : AluResult := sequential pc imm

/-- R138 -/
def aluAuipc (imm : Word) (pc : Addr) : AluResult := sequential pc (pc + imm)

/-- R139 -/
def aluAddi (a imm : Word) (pc : Addr) : AluResult := sequential pc (a + imm)

/-- R140 -/
def aluSlti (a imm : Word) (pc : Addr) : AluResult := sequential pc (boolWord (lessSigned a imm))

/-- R141 -/
def aluSltiu (a imm : Word) (pc : Addr) : AluResult := sequential pc (boolWord (lessUnsigned a imm))

/-- R142 -/
def aluXori (a imm : Word) (pc : Addr) : AluResult := sequential pc (a ^^^ imm)

/-- R143 -/
def aluOri (a imm : Word) (pc : Addr) : AluResult := sequential pc (a ||| imm)

/-- R144 -/
def aluAndi (a imm : Word) (pc : Addr) : AluResult := sequential pc (a &&& imm)

/-- R145 -/
def aluSlli (a : Word) (shamt : BitVec 5) (pc : Addr) : AluResult := sequential pc (a <<< shamt.toNat)

/-- R146 -/
def aluSrli (a : Word) (shamt : BitVec 5) (pc : Addr) : AluResult := sequential pc (a >>> shamt.toNat)

/-- R147 -/
def aluSrai (a : Word) (shamt : BitVec 5) (pc : Addr) : AluResult := sequential pc (sra a shamt)

/-! ### The ten register operations -/

/-- R148 -/
def aluAdd (a b : Word) (pc : Addr) : AluResult := sequential pc (a + b)

/-- R149 -/
def aluSub (a b : Word) (pc : Addr) : AluResult := sequential pc (a - b)

/-- R150 -/
def aluSll (a b : Word) (pc : Addr) : AluResult := sequential pc (a <<< (shiftAmount b).toNat)

/-- R151 -/
def aluSlt (a b : Word) (pc : Addr) : AluResult := sequential pc (boolWord (lessSigned a b))

/-- R152 -/
def aluSltu (a b : Word) (pc : Addr) : AluResult := sequential pc (boolWord (lessUnsigned a b))

/-- R153 -/
def aluXor (a b : Word) (pc : Addr) : AluResult := sequential pc (a ^^^ b)

/-- R154 -/
def aluSrl (a b : Word) (pc : Addr) : AluResult := sequential pc (a >>> (shiftAmount b).toNat)

/-- R155 -/
def aluSra (a b : Word) (pc : Addr) : AluResult := sequential pc (sra a (shiftAmount b))

/-- R156 -/
def aluOr (a b : Word) (pc : Addr) : AluResult := sequential pc (a ||| b)

/-- R157 -/
def aluAnd (a b : Word) (pc : Addr) : AluResult := sequential pc (a &&& b)

/-! ### Control transfer -/

/-- R162: the link value and the target `pc + imm_J`. -/
def aluJal (imm : Word) (pc : Addr) : AluResult := ⟨pc + 4#32, pc + imm⟩

/-- R163: the link value and the target `(a + imm_I) & 0xFFFFFFFE`. -/
def aluJalr (a imm : Word) (pc : Addr) : AluResult := ⟨pc + 4#32, (a + imm) &&& 0xFFFFFFFE#32⟩

/-- R164: value 0, and `pc + imm_B` if the condition holds, else `pc + 4`. -/
def branchResult (taken : Bool) (imm : Word) (pc : Addr) : AluResult :=
  ⟨0#32, if taken then pc + imm else pc + 4#32⟩

/-- R165 -/
def aluBeq (a b imm : Word) (pc : Addr) : AluResult := branchResult (condBeq a b) imm pc

/-- R166 -/
def aluBne (a b imm : Word) (pc : Addr) : AluResult := branchResult (condBne a b) imm pc

/-- R167 -/
def aluBlt (a b imm : Word) (pc : Addr) : AluResult := branchResult (condBlt a b) imm pc

/-- R168 -/
def aluBge (a b imm : Word) (pc : Addr) : AluResult := branchResult (condBge a b) imm pc

/-- R169 -/
def aluBltu (a b imm : Word) (pc : Addr) : AluResult := branchResult (condBltu a b) imm pc

/-- R170 -/
def aluBgeu (a b imm : Word) (pc : Addr) : AluResult := branchResult (condBgeu a b) imm pc

/-- R182: `value = 0`, `next_pc = pc + 4`. -/
def aluHalt (pc : Addr) : AluResult := sequential pc 0#32

/-! ### The unit -/

/-- R133 `ALU(cls, a, b, imm, shamt, pc)`: none for a memory-class record, which is never given to the ALU. -/
def aluResult (cls : OpClass) (a b imm : Word) (shamt : BitVec 5) (pc : Addr) : Option AluResult :=
  match cls with
  | .lui => some (aluLui imm pc)
  | .auipc => some (aluAuipc imm pc)
  | .jal => some (aluJal imm pc)
  | .jalr => some (aluJalr a imm pc)
  | .beq => some (aluBeq a b imm pc)
  | .bne => some (aluBne a b imm pc)
  | .blt => some (aluBlt a b imm pc)
  | .bge => some (aluBge a b imm pc)
  | .bltu => some (aluBltu a b imm pc)
  | .bgeu => some (aluBgeu a b imm pc)
  | .lb | .lh | .lw | .lbu | .lhu | .sb | .sh | .sw => none
  | .addi => some (aluAddi a imm pc)
  | .slti => some (aluSlti a imm pc)
  | .sltiu => some (aluSltiu a imm pc)
  | .xori => some (aluXori a imm pc)
  | .ori => some (aluOri a imm pc)
  | .andi => some (aluAndi a imm pc)
  | .slli => some (aluSlli a shamt pc)
  | .srli => some (aluSrli a shamt pc)
  | .srai => some (aluSrai a shamt pc)
  | .add => some (aluAdd a b pc)
  | .sub => some (aluSub a b pc)
  | .sll => some (aluSll a b pc)
  | .slt => some (aluSlt a b pc)
  | .sltu => some (aluSltu a b pc)
  | .xor => some (aluXor a b pc)
  | .srl => some (aluSrl a b pc)
  | .sra => some (aluSra a b pc)
  | .or => some (aluOr a b pc)
  | .and => some (aluAnd a b pc)
  | .halt => some (aluHalt pc)

/-- R132: the result of the record in the dispatch latch. -/
def aluNextOut (d : DispatchLatch) : Option AluOut :=
  match aluResult d.cls d.a d.b d.imm d.shamt d.pc with
  | some r => some { rob := d.rob, value := r.value, nextPc := r.nextPc }
  | none => none

/-- R132 `step_ALU`; in a flush tick the record is dropped. -/
def aluNext (s : State) : Alu :=
  { out :=
      if s.csu.flushReq then none
      else
        match s.rs.dispatch with
        | some d => aluNextOut d
        | none => none }

/-- R133: a memory-class record given to the ALU is Inconsistent. -/
def aluFaults (s : State) : List HostFault :=
  if s.csu.flushReq then []
  else
    match s.rs.dispatch with
    | some d =>
      match aluResult d.cls d.a d.b d.imm d.shamt d.pc with
      | some _ => []
      | none => [.inconsistent (.aluMemoryClass d.rob)]
    | none => []

end Sys2Proof.Machine
end

