-- ==== Sys2Proof/Machine/LoadStoreQueue.lean ====
section
/-! DEFINITION. The Load/Store Queue's step (spec/44_load_store_queue.md R124 to R131). -/

namespace Sys2Proof.Machine

/-- R131: the number of free entries, of LSQ_SIZE. -/
def lsqFree (cfg : Config) (q : Lsq) : Nat := cfg.lsqSize - q.count

/-- R126, R128: the index after `i`, modulo LSQ_SIZE. A queue longer than State's has its ring in State's entries
(log entry 5). -/
def lsqAfter (cfg : Config) (i : LsqIdx) : LsqIdx := if i.val + 1 < cfg.lsqSize then i + 1 else 0

/-- R126: the oldest entry. -/
def lsqHead (q : Lsq) : LsqEntry := q.entry[q.head]

/-- R126: the head is sent to Memory in this tick: it is Ready, Memory is Free and no request is on its way. -/
def lsqDispatches (s : State) : Bool :=
  decide (0 < s.lsq.count) && (lsqHead s.lsq).state == .ready && s.mem.state == .free && s.lsq.req.isNone

/-- R127: the request of an entry. -/
def lsqRequest (e : LsqEntry) : MemRequest :=
  { type := requestType e.cls
    signed := loadsSigned e.cls
    addr := effectiveAddr e.op1.value e.imm
    data := requestData e.cls e.op2.value
    rob := e.rob }

/-- R128: the record the LSQ accepts in this tick. -/
def lsqAccepting (s : State) : Option IssueLatch :=
  match s.csu.issue with
  | some i => if i.unit = .lsq then some i else none
  | none => none

/-- R128: the entry a record is appended as. -/
def lsqAccepted (s : State) (i : IssueLatch) : LsqEntry :=
  { state := slotStateOf (s.snoop i.op1) (s.snoop i.op2)
    cls := i.cls
    op1 := s.snoop i.op1
    op2 := s.snoop i.op2
    imm := i.imm
    rob := i.rob }

/-- R125: a waiting entry with each operand snooped and its state recomputed. -/
def lsqSnooped (s : State) (e : LsqEntry) : LsqEntry :=
  { e with
    state := slotStateOf (s.snoop e.op1) (s.snoop e.op2)
    op1 := s.snoop e.op1
    op2 := s.snoop e.op2 }

/-- R125: an entry that is neither dispatched nor accepted into. -/
def lsqWaiting (s : State) (e : LsqEntry) : LsqEntry :=
  match e.state with
  | .awaitingOperands => lsqSnooped s e
  | .empty => e
  | .ready => e

/-- R124: entry `i` after the tick. Dispatch frees the Ready head, accept fills the tail, which is Empty, and snoop
restages the waiting entries; in a flush tick every entry is Empty (R129). -/
def lsqEntryNext (s : State) (i : LsqIdx) : LsqEntry :=
  let e := s.lsq.entry[i]
  if s.csu.flushReq then LsqEntry.empty
  else if lsqDispatches s && i == s.lsq.head then LsqEntry.empty
  else
    match lsqAccepting s with
    | some r => if i = s.lsq.tail then lsqAccepted s r else lsqWaiting s e
    | none => lsqWaiting s e

/-- R126, R129: the request latch. -/
def lsqReqNext (s : State) : Option MemRequest :=
  if s.csu.flushReq then none
  else if lsqDispatches s then some (lsqRequest (lsqHead s.lsq))
  else none

/-- R124 `step_LSQ`. -/
def lsqNext (cfg : Config) (s : State) : Lsq :=
  { entry := Vector.ofFn (lsqEntryNext s)
    head :=
      if s.csu.flushReq then 0 else if lsqDispatches s then lsqAfter cfg s.lsq.head else s.lsq.head
    tail :=
      if s.csu.flushReq then 0 else if (lsqAccepting s).isSome then lsqAfter cfg s.lsq.tail else s.lsq.tail
    count :=
      if s.csu.flushReq then 0
      else
        s.lsq.count - (if lsqDispatches s then 1 else 0) + (if (lsqAccepting s).isSome then 1 else 0)
    req := lsqReqNext s }

/-- R81: the accept's tail entry is staged by dispatch or by snoop too. -/
def lsqTailStagedTwice (s : State) : Bool :=
  (lsqDispatches s && s.lsq.head == s.lsq.tail) || (s.lsq.entry[s.lsq.tail]).state == .awaitingOperands

/-- R128: an accept while full is the fault LSQCapacity; R81: an accept into an entry that another part of the step
stages; a dispatched entry that still holds a tag is Inconsistent (log entry 6). -/
def lsqFaults (cfg : Config) (s : State) : List HostFault :=
  if s.csu.flushReq then []
  else
    (match lsqAccepting s with
      | some r =>
        (if s.lsq.count = cfg.lsqSize then [.lsqCapacity r] else []) ++
        (if lsqTailStagedTwice s then [.doubleWrite (.lsqEntry s.lsq.tail)] else [])
      | none => []) ++
    (if lsqDispatches s then
      let e := lsqHead s.lsq
      if e.op1.resolved && e.op2.resolved then [] else [.inconsistent (.readyWithTag e.rob)]
    else [])

end Sys2Proof.Machine
end

