-- ==== Sys2Proof/Machine/ReservationStation.lean ====
section
/-! DEFINITION. The Reservation Station's step (spec/43_reservation_station.md R117 to R123). -/

namespace Sys2Proof.Machine

/-- R123: the number of Empty slots. -/
def rsFree (rs : ResStation) : Nat := rs.slot.toList.countP fun e => e.state == .empty

/-- R119 `selectReady`: the lowest-index Ready slot. -/
def rsSelect (rs : ResStation) : Option RsIdx := firstIdx fun i => rs.slot[i].state == .ready

/-- R121: the lowest-index Empty slot (decision D21). -/
def rsFirstEmpty (rs : ResStation) : Option RsIdx := firstIdx fun i => rs.slot[i].state == .empty

/-- R121: the record the RS accepts in this tick. -/
def rsAccepting (s : State) : Option IssueLatch :=
  match s.csu.issue with
  | some i => if i.unit = .rs then some i else none
  | none => none

/-- R121: the slot a record is accepted into, its operands snooped against this tick's broadcasts. -/
def rsAccepted (s : State) (i : IssueLatch) : RsSlot :=
  { state := slotStateOf (s.snoop i.op1) (s.snoop i.op2)
    cls := i.cls
    op1 := s.snoop i.op1
    op2 := s.snoop i.op2
    imm := i.imm
    shamt := i.shamt
    pc := i.pc
    rob := i.rob }

/-- R120: a waiting slot with each operand snooped and its state recomputed. -/
def rsSnooped (s : State) (e : RsSlot) : RsSlot :=
  { e with
    state := slotStateOf (s.snoop e.op1) (s.snoop e.op2)
    op1 := s.snoop e.op1
    op2 := s.snoop e.op2 }

/-- R117: slot `i` after the tick. Select frees a Ready slot, snoop restages the waiting ones, accept fills an Empty
one; in a flush tick every slot is Empty (R122). -/
def rsSlotNext (s : State) (i : RsIdx) : RsSlot :=
  let e := s.rs.slot[i]
  if s.csu.flushReq then RsSlot.empty
  else
    match e.state with
    | .ready => if rsSelect s.rs = some i then RsSlot.empty else e
    | .awaitingOperands => rsSnooped s e
    | .empty =>
      match rsAccepting s with
      | some r => if rsFirstEmpty s.rs = some i then rsAccepted s r else e
      | none => e

/-- R119: the record on its way to the ALU. -/
def rsDispatchOf (e : RsSlot) : DispatchLatch :=
  { cls := e.cls
    a := e.op1.value
    b := e.op2.value
    imm := e.imm
    shamt := e.shamt
    pc := e.pc
    rob := e.rob }

/-- R119, R122: the dispatch latch. -/
def rsDispatchNext (s : State) : Option DispatchLatch :=
  if s.csu.flushReq then none
  else
    match rsSelect s.rs with
    | some i => some (rsDispatchOf s.rs.slot[i])
    | none => none

/-- R117 `step_RS`. -/
def rsNext (s : State) : ResStation :=
  { slot := Vector.ofFn (rsSlotNext s)
    dispatch := rsDispatchNext s }

/-- R121: an accept with no Empty slot is the fault RSCapacity; a dispatched record that still holds a tag is
Inconsistent (log entry 6). -/
def rsFaults (s : State) : List HostFault :=
  if s.csu.flushReq then []
  else
    (match rsAccepting s, rsFirstEmpty s.rs with
      | some r, none => [.rsCapacity r]
      | some _, some _ => []
      | none, _ => []) ++
    (match rsSelect s.rs with
      | some i =>
        let e := s.rs.slot[i]
        if e.op1.resolved && e.op2.resolved then [] else [.inconsistent (.readyWithTag e.rob)]
      | none => [])

end Sys2Proof.Machine
end

