-- ==== Sys2Proof/Machine/Csu.lean ====
section
/-! DEFINITION. The Central Schedule Unit's step (spec/42_csu_rob.md R97 to R112): commit, completion, issue of the
instruction at the speculated PC, and the flush. The word fetched there and its decoding come in as `Fetched`: the
issue attempt of R104 is made with it. -/

namespace Sys2Proof.Machine

/-! ### What is at the speculated PC (R104, R107) -/

/-- R107: how the fetch PC goes on past an instruction. -/
inductive NextGuess where
  /-- pc + 4 -/
  | sequential
  /-- jal: pc + imm_J, exactly -/
  | jump (off : Word)
  /-- a conditional branch: BRANCH_PREDICT's guess between pc + imm_B and pc + 4 -/
  | branch (off : Word)
  /-- jalr: nothing is speculated; issue waits -/
  | wait
  deriving DecidableEq, Repr

/-- R71, R110: the fields of a decoded instruction that issue broadcasts. `src1` and `src2` are the register operands
its class uses (R69). -/
structure IssueReq where
  word : Word
  cls : OpClass
  src1 : Option RegIdx
  src2 : Option RegIdx
  writesRd : Bool
  rd : RegIdx
  imm : Word
  shamt : BitVec 5
  guess : NextGuess
  deriving DecidableEq, Repr

/-- R71: `has_rd = (class has rd) and rd ≠ 0`. -/
def IssueReq.hasRd (r : IssueReq) : Bool := r.writesRd && r.rd != 0#5

/-- R104: the issue destination. -/
def IssueReq.unit (r : IssueReq) : IssueUnit := r.cls.unit

/-- R104: the outcome of fetching and decoding the word at the speculated PC. -/
inductive Fetched where
  | known (r : IssueReq)
  | unknown (w : Word)
  deriving DecidableEq, Repr

/-! ### Commit (R99, R100) -/

/-- R99: the head entry. -/
def Csu.headEntry (c : Csu) : RobEntry := c.rob[c.robHead]

/-- R99 `commits`. -/
def Csu.commits (c : Csu) : Bool := decide (0 < c.robCount) && c.headEntry.state == .readyToCommit

/-- R99 `flush_now`. -/
def Csu.flushNow (c : Csu) : Bool := c.commits && c.headEntry.mismatch

/-- R99: the commit latch's contents for the head entry. -/
def Csu.commitLatch (c : Csu) : CommitLatch :=
  { rob := c.robHead
    hasRd := c.headEntry.hasRd
    rd := c.headEntry.rd
    value := c.headEntry.value }

/-- R100: the value of a0 after every instruction older than the one committing. -/
def currentA0 (s : State) : Word :=
  match s.csu.commit with
  | some k => if k.hasRd && k.rd == 10#5 then k.value else s.rf.read 10#5
  | none => s.rf.read 10#5

/-- R100: `(1 << HALT_BIT) | zext_32(a0[7:0])`. -/
def haltLatch (cfg : Config) (s : State) : Word :=
  (1#32 <<< cfg.haltBit) ||| ((currentA0 s).setWidth 8).setWidth 32

/-! ### Completion (R101) -/

/-- R101: the ALU's broadcast, if it names entry `i`. -/
def aluCompletes (s : State) (i : RobIdx) : Option AluOut :=
  match s.alu.out with
  | some o => if o.rob = i then some o else none
  | none => none

/-- R101: Memory's broadcast, if it names entry `i`. -/
def memCompletes (s : State) (i : RobIdx) : Option MemOut :=
  match s.mem.out with
  | some o => if o.rob = i then some o else none
  | none => none

/-- R101: an entry completed by the ALU: its value, its resolved PC and its mismatch flag (never set for jalr). -/
def completedByAlu (e : RobEntry) (o : AluOut) : RobEntry :=
  { e with
    state := .readyToCommit
    value := o.value
    pcReady := true
    resolvedPc := o.nextPc
    mismatch := e.cls != .jalr && o.nextPc != e.specNext }

/-- R101: an entry completed by Memory: its value only (decision D31). -/
def completedByMem (e : RobEntry) (o : MemOut) : RobEntry :=
  { e with
    state := .readyToCommit
    value := o.value }

/-- R101, R112: the target of the jalr that completes in this tick. -/
def jalrCompletes (s : State) : Option Addr :=
  match s.alu.out with
  | some o => if (s.csu.rob[o.rob]).cls = .jalr then some o.nextPc else none
  | none => none

/-! ### Issue (R103 to R110) -/

/-- R103: an issue attempt is made in this tick. -/
def Csu.attempts (c : Csu) : Bool := !c.flushReq && !c.flushNow && !c.jalrWait

/-- R106: the free places the target unit reports. -/
def unitFree (cfg : Config) (s : State) (u : IssueUnit) : Nat :=
  match u with
  | .rs => rsFree s.rs
  | .lsq => lsqFree cfg s.lsq

/-- R106: 1 for an instruction the unit accepts in this tick, which its count does not show yet. -/
def acceptPending (s : State) (u : IssueUnit) : Nat :=
  match s.csu.issue with
  | some i => if i.unit = u then 1 else 0
  | none => 0

/-- R106 `can_issue`. -/
def canIssue (cfg : Config) (s : State) (u : IssueUnit) : Bool :=
  decide (s.csu.robCount < robSize) && decide (acceptPending s u + 1 ≤ unitFree cfg s u)

/-- R103 to R106: the instruction issued in this tick. -/
def issuing (cfg : Config) (s : State) (f : Fetched) : Option IssueReq :=
  match f with
  | .known r => if s.csu.attempts && canIssue cfg s r.unit then some r else none
  | .unknown _ => none

/-- R107 `sn`. -/
def specNextOf (cfg : Config) (pc : Addr) (g : NextGuess) : Addr :=
  match g with
  | .sequential => pc + 4#32
  | .jump off => pc + off
  | .branch off =>
    match cfg.branchPredict with
    | .taken => pc + off
    | .notTaken => pc + 4#32
  | .wait => 0#32

/-- R108: the entry allocated at the tail. A memory-class instruction's next PC is known at issue. -/
def allocated (cfg : Config) (pc : Addr) (r : IssueReq) : RobEntry :=
  { state := .issued
    word := r.word
    cls := r.cls
    pc := pc
    hasRd := r.hasRd
    rd := r.rd
    value := 0#32
    specNext := specNextOf cfg pc r.guess
    pcReady := r.unit == .lsq
    resolvedPc := if r.unit = .lsq then pc + 4#32 else 0#32
    mismatch := false }

/-- R109 case 3: the operand of a register whose producer `q` is recorded: the commit latch, the ROB, this tick's
broadcasts, else the tag. -/
def resolveBusy (s : State) (r : RegIdx) (q : RobIdx) : Operand :=
  match s.csu.commit with
  | some k => if k.rob == q && k.hasRd && k.rd == r then .val k.value else fromRob
  | none => fromRob
where
  /-- R109 cases 3a and 3b. -/
  fromRob : Operand :=
    if (s.csu.rob[q]).state = .readyToCommit then .val (s.csu.rob[q]).value
    else
      match s.broadcast q with
      | some v => .val v
      | none => .tag q

/-- R109 `resolve(r)` from case 3 on: the RF's table, else its value. -/
def resolveFromRf (s : State) (r : RegIdx) : Operand :=
  if s.rf.isBusy r then resolveBusy s r (s.rf.producerOf r) else .val (s.rf.read r)

/-- R109 `resolve(r)`. -/
def resolveReg (s : State) (r : RegIdx) : Operand :=
  if r = 0#5 then .val 0#32
  else
    match s.csu.issue with
    | some i => if i.hasRd && i.rd == r then .tag i.rob else resolveFromRf s r
    | none => resolveFromRf s r

/-- R109, R110: the descriptor of an operand, `None` where the class does not use it. -/
def resolveSrc (s : State) (src : Option RegIdx) : Operand :=
  match src with
  | some r => resolveReg s r
  | none => .none

/-- R110: the issue latch's contents. -/
def issueLatchOf (cfg : Config) (s : State) (r : IssueReq) : IssueLatch :=
  { unit := r.unit
    cls := r.cls
    hasRd := r.hasRd
    rd := r.rd
    op1 := resolveSrc s r.src1
    op2 := resolveSrc s r.src2
    imm := r.imm
    shamt := r.shamt
    pc := s.csu.specPc
    specNext := specNextOf cfg s.csu.specPc r.guess
    rob := s.csu.robTail }

/-! ### The step (R97) -/

/-- R99, R101, R102, R108: ROB entry `i` after a tick that is no flush tick. -/
def robEntryNext (cfg : Config) (s : State) (f : Fetched) (i : RobIdx) : RobEntry :=
  let e := s.csu.rob[i]
  if s.csu.commits && i == s.csu.robHead then RobEntry.empty
  else
    match aluCompletes s i, memCompletes s i with
    | some o, _ => completedByAlu e o
    | none, some o => completedByMem e o
    | none, none =>
      match issuing cfg s f with
      | some r =>
        if i = s.csu.robTail then allocated cfg s.csu.specPc r
        else if e.state = .issued then { e with state := .executing } else e
      | none => if e.state = .issued then { e with state := .executing } else e

/-- R101, R107, R112: the speculated PC after a tick that is no flush tick. -/
def specPcNext (cfg : Config) (s : State) (f : Fetched) : Addr :=
  match jalrCompletes s with
  | some t => t
  | none =>
    match issuing cfg s f with
    | some r => if r.guess = .wait then s.csu.specPc else specNextOf cfg s.csu.specPc r.guess
    | none => s.csu.specPc

/-- R101, R107, R112: the jalr stall after a tick that is no flush tick. -/
def jalrWaitNext (cfg : Config) (s : State) (f : Fetched) : Bool :=
  if (jalrCompletes s).isSome then false
  else
    match issuing cfg s f with
    | some r => if r.guess = .wait then true else s.csu.jalrWait
    | none => s.csu.jalrWait

/-- R97 `nxt.csu.rob_count`. -/
def robCountNext (cfg : Config) (s : State) (f : Fetched) : Nat :=
  s.csu.robCount - (if s.csu.commits then 1 else 0) + (if (issuing cfg s f).isSome then 1 else 0)

/-- R98: the flush of the CSU. -/
def csuFlushed (c : Csu) : Csu :=
  { c with
    specPc := c.archPc
    flushReq := false
    jalrWait := false
    rob := Vector.replicate robSize RobEntry.empty
    robHead := 0
    robTail := 0
    robCount := 0
    issue := none
    commit := none }

/-- R97 `step_CSU`. -/
def csuNext (cfg : Config) (f : Fetched) (s : State) : Csu :=
  let c := s.csu
  if c.flushReq then csuFlushed c
  else
    { specPc := specPcNext cfg s f
      archPc := if c.commits then c.headEntry.resolvedPc else c.archPc
      flushReq := c.flushNow
      jalrWait := jalrWaitNext cfg s f
      haltSignal := if c.commits && c.headEntry.cls == .halt then haltLatch cfg s else c.haltSignal
      rob := Vector.ofFn (robEntryNext cfg s f)
      robHead := if c.commits then c.robHead + 1 else c.robHead
      robTail := if (issuing cfg s f).isSome then c.robTail + 1 else c.robTail
      robCount := robCountNext cfg s f
      issue :=
        match issuing cfg s f with
        | some r => some (issueLatchOf cfg s r)
        | none => none
      commit := if c.commits then some c.commitLatch else none }

/-! ### The CSU's faults (R81, R101, R105, R24) -/

/-- R24: entry `i` is among the `rob_count` entries from the head on. -/
def Csu.live (c : Csu) (i : RobIdx) : Bool :=
  decide ((i.val + robSize - c.robHead.val) % robSize < c.robCount)

/-- R24: the ROB pointer invariants. -/
def Csu.pointersOk (c : Csu) : Bool :=
  decide (c.robCount ≤ robSize) &&
    decide (c.robTail.val = (c.robHead.val + c.robCount) % robSize) &&
    (List.finRange robSize).all fun i => ((c.rob[i]).state != .empty) == c.live i

/-- R105: an unknown word at an issue attempt, under the policy; otherwise the attempt only stalls. -/
def illegalFault (cfg : Config) (s : State) (f : Fetched) : List HostFault :=
  match f with
  | .known _ => []
  | .unknown w =>
    if s.csu.attempts && (cfg.illegalPolicy == .immediate || s.csu.robCount == 0) then
      [.illegalInstruction s.csu.specPc w]
    else []

/-- R101: the entry a broadcast names is Executing. -/
def completionFault (s : State) (i : RobIdx) : List HostFault :=
  if (s.csu.rob[i]).state = .executing then [] else [.inconsistent (.completion i)]

/-- R81: the tail entry, which issue stages, is staged by another part of the step. -/
def tailStagedTwice (s : State) : Bool :=
  let t := s.csu.robTail
  (s.csu.commits && s.csu.robHead == t) || (aluCompletes s t).isSome || (memCompletes s t).isSome ||
    (s.csu.rob[t]).state == .issued

/-- R81: the cells that two parts of the CSU's step stage in this tick. -/
def csuDoubleWrites (cfg : Config) (s : State) (f : Fetched) : List HostFault :=
  (match s.alu.out, s.mem.out with
    | some a, some m => if a.rob = m.rob then [.doubleWrite (.robEntry a.rob)] else []
    | some _, none => []
    | none, _ => []) ++
  (if (issuing cfg s f).isSome && tailStagedTwice s then [.doubleWrite (.robEntry s.csu.robTail)] else []) ++
  (if (issuing cfg s f).isSome && (jalrCompletes s).isSome then [.doubleWrite .specPc] else [])

/-- The faults the CSU's step raises. The pointer invariants of R24 are checked on the state at the start of every
tick. -/
def csuFaults (cfg : Config) (f : Fetched) (s : State) : List HostFault :=
  (if s.csu.pointersOk then [] else [.inconsistent .robPointers]) ++
  (if s.csu.flushReq then []
  else
    illegalFault cfg s f ++
    (match s.alu.out with
      | some o => completionFault s o.rob
      | none => []) ++
    (match s.mem.out with
      | some o => completionFault s o.rob
      | none => []) ++
    csuDoubleWrites cfg s f)

end Sys2Proof.Machine
end

