-- ==== Sys2Proof/Machine/RegisterFile.lean ====
section
/-! DEFINITION. The Register File's step (spec/41_register_file.md R90 to R95). -/

namespace Sys2Proof.Machine

/-- R90, R91 commitWrite: the values, with the committed entry's stored. -/
def rfValueNext (s : State) : Vector Word nRegs :=
  match s.csu.commit with
  | some c => if c.hasRd then setReg s.rf.value c.rd c.value else s.rf.value
  | none => s.rf.value

/-- R90, R92: commitWrite clears the not-ready flag: the entry is still the recorded producer, and the issue latch
names no new one. -/
def clearsBusy (s : State) (c : CommitLatch) : Bool :=
  c.hasRd && s.rf.isBusy c.rd && s.rf.producerOf c.rd == c.rob &&
    !(match s.csu.issue with
      | some i => i.hasRd && i.rd == c.rd
      | none => false)

/-- R90, R91, R93, R94: the not-ready flags. -/
def rfBusyNext (s : State) : Vector Bool nRegs :=
  if s.csu.flushReq then Vector.replicate nRegs false
  else
    let cleared :=
      match s.csu.commit with
      | some c => if clearsBusy s c then setReg s.rf.busy c.rd false else s.rf.busy
      | none => s.rf.busy
    match s.csu.issue with
    | some i => if i.hasRd then setReg cleared i.rd true else cleared
    | none => cleared

/-- R90, R93 issueWrite: the producer table. -/
def rfProducerNext (s : State) : Vector RobIdx nRegs :=
  if s.csu.flushReq then s.rf.producer
  else
    match s.csu.issue with
    | some i => if i.hasRd then setReg s.rf.producer i.rd i.rob else s.rf.producer
    | none => s.rf.producer

/-- R90 `step_RF`. -/
def rfNext (s : State) : RegFile :=
  { value := rfValueNext s
    busy := rfBusyNext s
    producer := rfProducerNext s }

end Sys2Proof.Machine
end

