-- ==== Sys2Proof/Machine/Tick.lean ====
section
/-! DEFINITION. The tick (spec/40_clock_and_bus.md R78 to R83, R86, R87): every unit's next state computed from the
state at the start of the tick, the faults the units raise, the sync, and the driver's check for the end of the
run. -/

namespace Sys2Proof.Machine

/-- R79, R80: `nxt`. Each unit's step reads `cur` only and gives its own fields, so the order of the steps cannot
matter (R82), and no field is staged twice. -/
def unitsNext (cfg : Config) (f : Fetched) (s : State) : State :=
  { csu := csuNext cfg f s
    rf := rfNext s
    rs := rsNext s
    lsq := lsqNext cfg s
    alu := aluNext s
    mem := memNext s
    drv := s.drv
    guard := guardNext s }

/-- R83: the host faults raised in this tick, by unit. -/
def tickFaults (cfg : Config) (f : Fetched) (s : State) : List HostFault :=
  csuFaults cfg f s ++ rsFaults s ++ lsqFaults cfg s ++ aluFaults s ++ memFaults s

/-- R61: the address on the architectural path, if there is one in this tick, at which the program fetches a byte
that a store changed: a committing entry's, or that of an unknown word with the ROB empty. -/
def refusedFetch (f : Fetched) (s : State) : Option Addr :=
  if s.csu.flushReq then none
  else if s.csu.commits && fetchesStored s s.csu.headEntry.pc then some s.csu.headEntry.pc
  else
    match f with
    | .known _ => none
    | .unknown _ =>
      if s.csu.attempts && s.csu.robCount == 0 && fetchesStored s s.csu.specPc then some s.csu.specPc
      else none

/-- R21, R87: the marker bit of the halt signal. -/
def haltMarked (cfg : Config) (c : Csu) : Bool := c.haltSignal.getLsbD cfg.haltBit

/-- R87: the status after the sync of a tick, halt before cap, where `cycle` counts that tick. -/
def statusAfter (cfg : Config) (c : Csu) (cycle : Nat) : RunStatus :=
  if haltMarked cfg c then .halted (c.haltSignal.setWidth 8)
  else
    match cfg.maxCycles with
    | some n => if n ≤ cycle then .capped else .running
    | none => .running

/-- R79, R86, R87: the sync's end: the cycle counter and the check for termination. -/
def afterSync (cfg : Config) (s : State) : State :=
  { s with
    drv :=
      { cycle := s.drv.cycle + 1
        status := statusAfter cfg s.csu (s.drv.cycle + 1) } }

/-- R79: one tick, with what was fetched at the speculated PC. A fault ends the run in this tick and the staged
state is discarded (R83, decision D41). -/
def tick (cfg : Config) (f : Fetched) (s : State) : Host.Outcome State Fault Refusal :=
  match refusedFetch f s with
  | some pc => .refused (.storedCodeFetched pc)
  | none =>
    match lowestFault (tickFaults cfg f s) with
    | some k => .fault (.host k)
    | none => .next (afterSync cfg (unitsNext cfg f s))

/-- R47 `fetchInstructionImmediate(spec_pc)`, over the array at the start of the tick. -/
def fetchWord (s : State) : Word := s.mem.bytes.read32 s.csu.specPc

/-- R105: the tick in which the word at the speculated PC is Unknown. -/
def unknownTick (w : Word) (s : State) : Host.Outcome State Fault Refusal :=
  tick Config.core (.unknown w) s

/-- R87: a run that has ended has no further tick. -/
def endedRun (s : State) : Host.Outcome State Fault Refusal := .fault (.runEnded s.drv.status)

/-- R83: the state of a run that a fault ended: nothing of the faulting tick is kept but the kind. -/
def faultedState (s : State) (k : HostFault) : State :=
  { s with drv := { s.drv with status := .faulted k } }

end Sys2Proof.Machine
end

