-- ==== Sys2Proof/Machine/Issue.lean ====
section
/-! DEFINITION. The issue records of the formats (spec/30_encoding.md R66, R69, R71): what decode hands the issue
logic for an instruction of each operand form. The instructions' own files say which form each takes. -/

namespace Sys2Proof.Machine

/-- R format: two register operands, a destination, no immediate; DESIGN CHOICE: imm is 0 (log entry 15). -/
def issueR (cls : OpClass) (word : Word) (rd rs1 rs2 : RegIdx) : IssueReq :=
  { word := word
    cls := cls
    src1 := some rs1
    src2 := some rs2
    writesRd := true
    rd := rd
    imm := 0#32
    shamt := Field.shamt word
    guess := .sequential }

/-- I format: one register operand, a destination, imm_I. -/
def issueI (cls : OpClass) (word : Word) (rd rs1 : RegIdx) (imm : BitVec 12) (guess : NextGuess) : IssueReq :=
  { word := word
    cls := cls
    src1 := some rs1
    src2 := none
    writesRd := true
    rd := rd
    imm := immediate12 imm
    shamt := Field.shamt word
    guess := guess }

/-- The shift-immediates: one register operand, a destination, the shift amount. R69 gives the class shamt only;
DESIGN CHOICE: imm is imm_I of `word`, the canonical encoding, also where the fetched word has other funct7 bits
(STRICT_DECODE = false, log entry 15). No rule reads it. -/
def issueShift (cls : OpClass) (word : Word) (rd rs1 : RegIdx) (shamt : BitVec 5) : IssueReq :=
  { word := word
    cls := cls
    src1 := some rs1
    src2 := none
    writesRd := true
    rd := rd
    imm := immediate12 (Field.immI word)
    shamt := shamt
    guess := .sequential }

/-- S format: base and data registers, imm_S, no destination. -/
def issueS (cls : OpClass) (word : Word) (rs1 rs2 : RegIdx) (imm : BitVec 12) : IssueReq :=
  { word := word
    cls := cls
    src1 := some rs1
    src2 := some rs2
    writesRd := false
    rd := Field.rd word
    imm := immediate12 imm
    shamt := Field.shamt word
    guess := .sequential }

/-- B format: two register operands, imm_B, no destination. -/
def issueB (cls : OpClass) (word : Word) (rs1 rs2 : RegIdx) (off : BitVec 13) : IssueReq :=
  { word := word
    cls := cls
    src1 := some rs1
    src2 := some rs2
    writesRd := false
    rd := Field.rd word
    imm := immediateB off
    shamt := Field.shamt word
    guess := .branch (immediateB off) }

/-- U format: a destination and imm_U, no register operand. -/
def issueU (cls : OpClass) (word : Word) (rd : RegIdx) (imm : BitVec 20) : IssueReq :=
  { word := word
    cls := cls
    src1 := none
    src2 := none
    writesRd := true
    rd := rd
    imm := immediateU imm
    shamt := Field.shamt word
    guess := .sequential }

/-- J format: a destination and imm_J, no register operand; the target is exact at issue. -/
def issueJ (cls : OpClass) (word : Word) (rd : RegIdx) (off : BitVec 21) : IssueReq :=
  { word := word
    cls := cls
    src1 := none
    src2 := none
    writesRd := true
    rd := rd
    imm := immediateJ off
    shamt := Field.shamt word
    guess := .jump (immediateJ off) }

/-- The tick in which the instruction of an issue record is the one at the speculated PC (R104): if an issue attempt
is made and there is capacity, the instruction is issued in it. -/
def issueTick (r : IssueReq) (s : State) : Host.Outcome State Fault Refusal :=
  tick Config.core (.known r) s

end Sys2Proof.Machine
end

