-- ==== Sys2Proof/Machine/Control.lean ====
section
/-! DEFINITION. The control transfers (spec/46_control_transfer.md R162 to R170). What each computes is its `alu<Name>` in
Machine/Alu.lean; how the fetch PC goes on past it is its `NextGuess` (R107).
The core is a tick-level machine (spec/00_scope.md R6): `exec<Name>` is the whole tick in which the instruction is the one at
the speculated PC, `issue<Name>` what that tick issues for it (R104 to R110).
-/

namespace Sys2Proof.Machine

/-- R162: what issue broadcasts for jal. -/
def issueJal (rd : RegIdx) (off : BitVec 21) : IssueReq :=
  issueJ .jal (encode (.jal rd off)) rd off

/-- R162 -/
def execJal (rd : RegIdx) (off : BitVec 21) (s : State) : Host.Outcome State Fault Refusal :=
  issueTick (issueJal rd off) s

/-- R163: what issue broadcasts for jalr. -/
def issueJalr (rd rs1 : RegIdx) (imm : BitVec 12) : IssueReq :=
  issueI .jalr (encode (.jalr rd rs1 imm)) rd rs1 imm .wait

/-- R163 -/
def execJalr (rd rs1 : RegIdx) (imm : BitVec 12) (s : State) : Host.Outcome State Fault Refusal :=
  issueTick (issueJalr rd rs1 imm) s

/-- R165: what issue broadcasts for beq. -/
def issueBeq (rs1 rs2 : RegIdx) (off : BitVec 13) : IssueReq :=
  issueB .beq (encode (.beq rs1 rs2 off)) rs1 rs2 off

/-- R165 -/
def execBeq (rs1 rs2 : RegIdx) (off : BitVec 13) (s : State) : Host.Outcome State Fault Refusal :=
  issueTick (issueBeq rs1 rs2 off) s

/-- R166: what issue broadcasts for bne. -/
def issueBne (rs1 rs2 : RegIdx) (off : BitVec 13) : IssueReq :=
  issueB .bne (encode (.bne rs1 rs2 off)) rs1 rs2 off

/-- R166 -/
def execBne (rs1 rs2 : RegIdx) (off : BitVec 13) (s : State) : Host.Outcome State Fault Refusal :=
  issueTick (issueBne rs1 rs2 off) s

/-- R167: what issue broadcasts for blt. -/
def issueBlt (rs1 rs2 : RegIdx) (off : BitVec 13) : IssueReq :=
  issueB .blt (encode (.blt rs1 rs2 off)) rs1 rs2 off

/-- R167 -/
def execBlt (rs1 rs2 : RegIdx) (off : BitVec 13) (s : State) : Host.Outcome State Fault Refusal :=
  issueTick (issueBlt rs1 rs2 off) s

/-- R168: what issue broadcasts for bge. -/
def issueBge (rs1 rs2 : RegIdx) (off : BitVec 13) : IssueReq :=
  issueB .bge (encode (.bge rs1 rs2 off)) rs1 rs2 off

/-- R168 -/
def execBge (rs1 rs2 : RegIdx) (off : BitVec 13) (s : State) : Host.Outcome State Fault Refusal :=
  issueTick (issueBge rs1 rs2 off) s

/-- R169: what issue broadcasts for bltu. -/
def issueBltu (rs1 rs2 : RegIdx) (off : BitVec 13) : IssueReq :=
  issueB .bltu (encode (.bltu rs1 rs2 off)) rs1 rs2 off

/-- R169 -/
def execBltu (rs1 rs2 : RegIdx) (off : BitVec 13) (s : State) : Host.Outcome State Fault Refusal :=
  issueTick (issueBltu rs1 rs2 off) s

/-- R170: what issue broadcasts for bgeu. -/
def issueBgeu (rs1 rs2 : RegIdx) (off : BitVec 13) : IssueReq :=
  issueB .bgeu (encode (.bgeu rs1 rs2 off)) rs1 rs2 off

/-- R170 -/
def execBgeu (rs1 rs2 : RegIdx) (off : BitVec 13) (s : State) : Host.Outcome State Fault Refusal :=
  issueTick (issueBgeu rs1 rs2 off) s

end Sys2Proof.Machine
end

