-- ==== Sys2Proof/Machine/Halt.lean ====
section
/-! DEFINITION. The halt sentinel (spec/48_halt_and_system.md R182). Its commit latches the halt signal (`haltLatch` in
Machine/Csu.lean, R100).
The core is a tick-level machine (spec/00_scope.md R6): `exec<Name>` is the whole tick in which the instruction is the one at
the speculated PC, `issue<Name>` what that tick issues for it (R104 to R110).
-/

namespace Sys2Proof.Machine

/-- R182: what issue broadcasts for the halt sentinel: it reads no register and writes none, and the word's fields
are not used. DESIGN CHOICE (log entry 15): imm is 0, and rd and shamt are the bits of this hardware's HALT_WORD, also
in a run with another. -/
def issueHalt : IssueReq :=
  { word := encode .halt
    cls := .halt
    src1 := none
    src2 := none
    writesRd := false
    rd := Field.rd (encode .halt)
    imm := 0#32
    shamt := Field.shamt (encode .halt)
    guess := .sequential }

/-- R182 -/
def execHalt (s : State) : Host.Outcome State Fault Refusal :=
  issueTick issueHalt s

end Sys2Proof.Machine
end

