-- ==== Sys2Proof/Machine/Integer.lean ====
section
/-! DEFINITION. The integer instructions (spec/45_integer.md R137 to R157): lui, auipc, the nine immediate and the ten
register operations. What each computes is its `alu<Name>` in Machine/Alu.lean.
The core is a tick-level machine (spec/00_scope.md R6): `exec<Name>` is the whole tick in which the instruction is the one at
the speculated PC, `issue<Name>` what that tick issues for it (R104 to R110).
-/

namespace Sys2Proof.Machine

/-- R137: what issue broadcasts for lui. -/
def issueLui (rd : RegIdx) (imm : BitVec 20) : IssueReq :=
  issueU .lui (encode (.lui rd imm)) rd imm

/-- R137 -/
def execLui (rd : RegIdx) (imm : BitVec 20) (s : State) : Host.Outcome State Fault Refusal :=
  issueTick (issueLui rd imm) s

/-- R138: what issue broadcasts for auipc. -/
def issueAuipc (rd : RegIdx) (imm : BitVec 20) : IssueReq :=
  issueU .auipc (encode (.auipc rd imm)) rd imm

/-- R138 -/
def execAuipc (rd : RegIdx) (imm : BitVec 20) (s : State) : Host.Outcome State Fault Refusal :=
  issueTick (issueAuipc rd imm) s

/-- R139: what issue broadcasts for addi. -/
def issueAddi (rd rs1 : RegIdx) (imm : BitVec 12) : IssueReq :=
  issueI .addi (encode (.addi rd rs1 imm)) rd rs1 imm .sequential

/-- R139 -/
def execAddi (rd rs1 : RegIdx) (imm : BitVec 12) (s : State) : Host.Outcome State Fault Refusal :=
  issueTick (issueAddi rd rs1 imm) s

/-- R140: what issue broadcasts for slti. -/
def issueSlti (rd rs1 : RegIdx) (imm : BitVec 12) : IssueReq :=
  issueI .slti (encode (.slti rd rs1 imm)) rd rs1 imm .sequential

/-- R140 -/
def execSlti (rd rs1 : RegIdx) (imm : BitVec 12) (s : State) : Host.Outcome State Fault Refusal :=
  issueTick (issueSlti rd rs1 imm) s

/-- R141: what issue broadcasts for sltiu. -/
def issueSltiu (rd rs1 : RegIdx) (imm : BitVec 12) : IssueReq :=
  issueI .sltiu (encode (.sltiu rd rs1 imm)) rd rs1 imm .sequential

/-- R141 -/
def execSltiu (rd rs1 : RegIdx) (imm : BitVec 12) (s : State) : Host.Outcome State Fault Refusal :=
  issueTick (issueSltiu rd rs1 imm) s

/-- R142: what issue broadcasts for xori. -/
def issueXori (rd rs1 : RegIdx) (imm : BitVec 12) : IssueReq :=
  issueI .xori (encode (.xori rd rs1 imm)) rd rs1 imm .sequential

/-- R142 -/
def execXori (rd rs1 : RegIdx) (imm : BitVec 12) (s : State) : Host.Outcome State Fault Refusal :=
  issueTick (issueXori rd rs1 imm) s

/-- R143: what issue broadcasts for ori. -/
def issueOri (rd rs1 : RegIdx) (imm : BitVec 12) : IssueReq :=
  issueI .ori (encode (.ori rd rs1 imm)) rd rs1 imm .sequential

/-- R143 -/
def execOri (rd rs1 : RegIdx) (imm : BitVec 12) (s : State) : Host.Outcome State Fault Refusal :=
  issueTick (issueOri rd rs1 imm) s

/-- R144: what issue broadcasts for andi. -/
def issueAndi (rd rs1 : RegIdx) (imm : BitVec 12) : IssueReq :=
  issueI .andi (encode (.andi rd rs1 imm)) rd rs1 imm .sequential

/-- R144 -/
def execAndi (rd rs1 : RegIdx) (imm : BitVec 12) (s : State) : Host.Outcome State Fault Refusal :=
  issueTick (issueAndi rd rs1 imm) s

/-- R145: what issue broadcasts for slli. -/
def issueSlli (rd rs1 : RegIdx) (shamt : BitVec 5) : IssueReq :=
  issueShift .slli (encode (.slli rd rs1 shamt)) rd rs1 shamt

/-- R145 -/
def execSlli (rd rs1 : RegIdx) (shamt : BitVec 5) (s : State) : Host.Outcome State Fault Refusal :=
  issueTick (issueSlli rd rs1 shamt) s

/-- R146: what issue broadcasts for srli. -/
def issueSrli (rd rs1 : RegIdx) (shamt : BitVec 5) : IssueReq :=
  issueShift .srli (encode (.srli rd rs1 shamt)) rd rs1 shamt

/-- R146 -/
def execSrli (rd rs1 : RegIdx) (shamt : BitVec 5) (s : State) : Host.Outcome State Fault Refusal :=
  issueTick (issueSrli rd rs1 shamt) s

/-- R147: what issue broadcasts for srai. -/
def issueSrai (rd rs1 : RegIdx) (shamt : BitVec 5) : IssueReq :=
  issueShift .srai (encode (.srai rd rs1 shamt)) rd rs1 shamt

/-- R147 -/
def execSrai (rd rs1 : RegIdx) (shamt : BitVec 5) (s : State) : Host.Outcome State Fault Refusal :=
  issueTick (issueSrai rd rs1 shamt) s

/-- R148: what issue broadcasts for add. -/
def issueAdd (rd rs1 rs2 : RegIdx) : IssueReq :=
  issueR .add (encode (.add rd rs1 rs2)) rd rs1 rs2

/-- R148 -/
def execAdd (rd rs1 rs2 : RegIdx) (s : State) : Host.Outcome State Fault Refusal :=
  issueTick (issueAdd rd rs1 rs2) s

/-- R149: what issue broadcasts for sub. -/
def issueSub (rd rs1 rs2 : RegIdx) : IssueReq :=
  issueR .sub (encode (.sub rd rs1 rs2)) rd rs1 rs2

/-- R149 -/
def execSub (rd rs1 rs2 : RegIdx) (s : State) : Host.Outcome State Fault Refusal :=
  issueTick (issueSub rd rs1 rs2) s

/-- R150: what issue broadcasts for sll. -/
def issueSll (rd rs1 rs2 : RegIdx) : IssueReq :=
  issueR .sll (encode (.sll rd rs1 rs2)) rd rs1 rs2

/-- R150 -/
def execSll (rd rs1 rs2 : RegIdx) (s : State) : Host.Outcome State Fault Refusal :=
  issueTick (issueSll rd rs1 rs2) s

/-- R151: what issue broadcasts for slt. -/
def issueSlt (rd rs1 rs2 : RegIdx) : IssueReq :=
  issueR .slt (encode (.slt rd rs1 rs2)) rd rs1 rs2

/-- R151 -/
def execSlt (rd rs1 rs2 : RegIdx) (s : State) : Host.Outcome State Fault Refusal :=
  issueTick (issueSlt rd rs1 rs2) s

/-- R152: what issue broadcasts for sltu. -/
def issueSltu (rd rs1 rs2 : RegIdx) : IssueReq :=
  issueR .sltu (encode (.sltu rd rs1 rs2)) rd rs1 rs2

/-- R152 -/
def execSltu (rd rs1 rs2 : RegIdx) (s : State) : Host.Outcome State Fault Refusal :=
  issueTick (issueSltu rd rs1 rs2) s

/-- R153: what issue broadcasts for xor. -/
def issueXor (rd rs1 rs2 : RegIdx) : IssueReq :=
  issueR .xor (encode (.xor rd rs1 rs2)) rd rs1 rs2

/-- R153 -/
def execXor (rd rs1 rs2 : RegIdx) (s : State) : Host.Outcome State Fault Refusal :=
  issueTick (issueXor rd rs1 rs2) s

/-- R154: what issue broadcasts for srl. -/
def issueSrl (rd rs1 rs2 : RegIdx) : IssueReq :=
  issueR .srl (encode (.srl rd rs1 rs2)) rd rs1 rs2

/-- R154 -/
def execSrl (rd rs1 rs2 : RegIdx) (s : State) : Host.Outcome State Fault Refusal :=
  issueTick (issueSrl rd rs1 rs2) s

/-- R155: what issue broadcasts for sra. -/
def issueSra (rd rs1 rs2 : RegIdx) : IssueReq :=
  issueR .sra (encode (.sra rd rs1 rs2)) rd rs1 rs2

/-- R155 -/
def execSra (rd rs1 rs2 : RegIdx) (s : State) : Host.Outcome State Fault Refusal :=
  issueTick (issueSra rd rs1 rs2) s

/-- R156: what issue broadcasts for or. -/
def issueOr (rd rs1 rs2 : RegIdx) : IssueReq :=
  issueR .or (encode (.or rd rs1 rs2)) rd rs1 rs2

/-- R156 -/
def execOr (rd rs1 rs2 : RegIdx) (s : State) : Host.Outcome State Fault Refusal :=
  issueTick (issueOr rd rs1 rs2) s

/-- R157: what issue broadcasts for and. -/
def issueAnd (rd rs1 rs2 : RegIdx) : IssueReq :=
  issueR .and (encode (.and rd rs1 rs2)) rd rs1 rs2

/-- R157 -/
def execAnd (rd rs1 rs2 : RegIdx) (s : State) : Host.Outcome State Fault Refusal :=
  issueTick (issueAnd rd rs1 rs2) s

end Sys2Proof.Machine
end

