-- ==== Sys2Proof/Machine/LoadStore.lean ====
section
/-! DEFINITION. Loads and stores (spec/47_load_store.md R174 to R181). The request each forms is `lsqRequest` in
Machine/LoadStoreQueue.lean; the access is Machine/MemoryUnit.lean's.
The core is a tick-level machine (spec/00_scope.md R6): `exec<Name>` is the whole tick in which the instruction is the one at
the speculated PC, `issue<Name>` what that tick issues for it (R104 to R110).
-/

namespace Sys2Proof.Machine

/-- R174: what issue broadcasts for lb. -/
def issueLb (rd rs1 : RegIdx) (imm : BitVec 12) : IssueReq :=
  issueI .lb (encode (.lb rd rs1 imm)) rd rs1 imm .sequential

/-- R174 -/
def execLb (rd rs1 : RegIdx) (imm : BitVec 12) (s : State) : Host.Outcome State Fault Refusal :=
  issueTick (issueLb rd rs1 imm) s

/-- R175: what issue broadcasts for lh. -/
def issueLh (rd rs1 : RegIdx) (imm : BitVec 12) : IssueReq :=
  issueI .lh (encode (.lh rd rs1 imm)) rd rs1 imm .sequential

/-- R175 -/
def execLh (rd rs1 : RegIdx) (imm : BitVec 12) (s : State) : Host.Outcome State Fault Refusal :=
  issueTick (issueLh rd rs1 imm) s

/-- R176: what issue broadcasts for lw. -/
def issueLw (rd rs1 : RegIdx) (imm : BitVec 12) : IssueReq :=
  issueI .lw (encode (.lw rd rs1 imm)) rd rs1 imm .sequential

/-- R176 -/
def execLw (rd rs1 : RegIdx) (imm : BitVec 12) (s : State) : Host.Outcome State Fault Refusal :=
  issueTick (issueLw rd rs1 imm) s

/-- R177: what issue broadcasts for lbu. -/
def issueLbu (rd rs1 : RegIdx) (imm : BitVec 12) : IssueReq :=
  issueI .lbu (encode (.lbu rd rs1 imm)) rd rs1 imm .sequential

/-- R177 -/
def execLbu (rd rs1 : RegIdx) (imm : BitVec 12) (s : State) : Host.Outcome State Fault Refusal :=
  issueTick (issueLbu rd rs1 imm) s

/-- R178: what issue broadcasts for lhu. -/
def issueLhu (rd rs1 : RegIdx) (imm : BitVec 12) : IssueReq :=
  issueI .lhu (encode (.lhu rd rs1 imm)) rd rs1 imm .sequential

/-- R178 -/
def execLhu (rd rs1 : RegIdx) (imm : BitVec 12) (s : State) : Host.Outcome State Fault Refusal :=
  issueTick (issueLhu rd rs1 imm) s

/-- R179: what issue broadcasts for sb. -/
def issueSb (rs1 rs2 : RegIdx) (imm : BitVec 12) : IssueReq :=
  issueS .sb (encode (.sb rs1 rs2 imm)) rs1 rs2 imm

/-- R179 -/
def execSb (rs1 rs2 : RegIdx) (imm : BitVec 12) (s : State) : Host.Outcome State Fault Refusal :=
  issueTick (issueSb rs1 rs2 imm) s

/-- R180: what issue broadcasts for sh. -/
def issueSh (rs1 rs2 : RegIdx) (imm : BitVec 12) : IssueReq :=
  issueS .sh (encode (.sh rs1 rs2 imm)) rs1 rs2 imm

/-- R180 -/
def execSh (rs1 rs2 : RegIdx) (imm : BitVec 12) (s : State) : Host.Outcome State Fault Refusal :=
  issueTick (issueSh rs1 rs2 imm) s

/-- R181: what issue broadcasts for sw. -/
def issueSw (rs1 rs2 : RegIdx) (imm : BitVec 12) : IssueReq :=
  issueS .sw (encode (.sw rs1 rs2 imm)) rs1 rs2 imm

/-- R181 -/
def execSw (rs1 rs2 : RegIdx) (imm : BitVec 12) (s : State) : Host.Outcome State Fault Refusal :=
  issueTick (issueSw rs1 rs2 imm) s

end Sys2Proof.Machine
end

