-- ==== Sys2Proof/Machine/Driver.lean ====
section
/-! DEFINITION. The driver's run (spec/70_reset_and_hazards.md R200, R201, R204, R205) and the machine with its
parameters as an argument (spec/00_scope.md R7, R8). `step` is this machine at the values R7 gives the hardware. -/

namespace Sys2Proof.Machine

/-! ### The parameters as an argument (R7) -/

/-- The issue record of each instruction. -/
def issueReqOf : Instr → IssueReq
  | .lui rd imm => issueLui rd imm
  | .auipc rd imm => issueAuipc rd imm
  | .jal rd off => issueJal rd off
  | .jalr rd rs1 imm => issueJalr rd rs1 imm
  | .beq rs1 rs2 off => issueBeq rs1 rs2 off
  | .bne rs1 rs2 off => issueBne rs1 rs2 off
  | .blt rs1 rs2 off => issueBlt rs1 rs2 off
  | .bge rs1 rs2 off => issueBge rs1 rs2 off
  | .bltu rs1 rs2 off => issueBltu rs1 rs2 off
  | .bgeu rs1 rs2 off => issueBgeu rs1 rs2 off
  | .lb rd rs1 imm => issueLb rd rs1 imm
  | .lh rd rs1 imm => issueLh rd rs1 imm
  | .lw rd rs1 imm => issueLw rd rs1 imm
  | .lbu rd rs1 imm => issueLbu rd rs1 imm
  | .lhu rd rs1 imm => issueLhu rd rs1 imm
  | .sb rs1 rs2 imm => issueSb rs1 rs2 imm
  | .sh rs1 rs2 imm => issueSh rs1 rs2 imm
  | .sw rs1 rs2 imm => issueSw rs1 rs2 imm
  | .addi rd rs1 imm => issueAddi rd rs1 imm
  | .slti rd rs1 imm => issueSlti rd rs1 imm
  | .sltiu rd rs1 imm => issueSltiu rd rs1 imm
  | .xori rd rs1 imm => issueXori rd rs1 imm
  | .ori rd rs1 imm => issueOri rd rs1 imm
  | .andi rd rs1 imm => issueAndi rd rs1 imm
  | .slli rd rs1 shamt => issueSlli rd rs1 shamt
  | .srli rd rs1 shamt => issueSrli rd rs1 shamt
  | .srai rd rs1 shamt => issueSrai rd rs1 shamt
  | .add rd rs1 rs2 => issueAdd rd rs1 rs2
  | .sub rd rs1 rs2 => issueSub rd rs1 rs2
  | .sll rd rs1 rs2 => issueSll rd rs1 rs2
  | .slt rd rs1 rs2 => issueSlt rd rs1 rs2
  | .sltu rd rs1 rs2 => issueSltu rd rs1 rs2
  | .xor rd rs1 rs2 => issueXor rd rs1 rs2
  | .srl rd rs1 rs2 => issueSrl rd rs1 rs2
  | .sra rd rs1 rs2 => issueSra rd rs1 rs2
  | .or rd rs1 rs2 => issueOr rd rs1 rs2
  | .and rd rs1 rs2 => issueAnd rd rs1 rs2
  | .halt => issueHalt

/-- R104: the word at the speculated PC, decoded. Without STRICT_DECODE (R72) a word may have bits its class does not
read, so the record keeps the word itself. DESIGN CHOICE (log entry 15): its other fields are those of the canonical
word of the same instruction, so the imm latched for a shift-immediate is imm_I of that word and not of the fetched
one, and those of the halt are of this hardware's HALT_WORD whatever HALT_WORD is. No rule reads them. -/
def fetched (cfg : Config) (s : State) : Fetched :=
  match decodeWord cfg (fetchWord s) with
  | .ok i => .known { issueReqOf i with word := fetchWord s }
  | .error _ => .unknown (fetchWord s)

/-- I4: the memory of `cfg` has a byte at `a`. -/
def inMemory (cfg : Config) (a : Addr) : Bool :=
  decide (a.toNat < cfg.memBytes) && decide (a.toNat < 2 ^ cfg.addrWidth)

/-- R39: the addresses of `n` bytes at `a`. -/
def bytesAt (a : Addr) (n : Nat) : List Addr := (List.range n).map fun k => a + BitVec.ofNat 32 k

/-- The addresses a tick reaches memory at: those of the word an issue attempt fetches (R47, R104) and of the request
Memory performs (R52). -/
def accessedAddrs (s : State) : List Addr :=
  (if s.csu.attempts then bytesAt s.csu.specPc 4 else []) ++
    (match memPerforming s with
      | some p =>
        match requestWidth p.type with
        | some w => bytesAt p.addr w.bytes
        | none => []
      | none => [])

/-- I4: an address that the tick reaches and that the memory of `cfg` does not have. In this hardware there is none
(R38). -/
def outsideMemory (cfg : Config) (s : State) : Option Addr :=
  (accessedAddrs s).find? fun a => !inMemory cfg a

/-- R79, R87: one tick of a run with the parameters `cfg`. With a memory smaller than this hardware's, a tick that
reaches beyond it is refused: "no rule says what an access above it does" (I4). -/
def stepWith (cfg : Config) (s : State) : Host.Outcome State Fault Refusal :=
  match s.drv.status with
  | .running =>
    match outsideMemory cfg s with
    | some a => .refused (.addressOutsideMemory a)
    | none => tick cfg (fetched cfg s) s
  | .halted _ => endedRun s
  | .faulted _ => endedRun s
  | .capped => endedRun s

/-! ### A run (R200, R201) -/

/-- R201: one record of a program image: bytes loaded contiguously from an address, modulo 2^32. -/
structure ImageRecord where
  addr : Addr
  bytes : List Byte
  deriving DecidableEq, Repr

/-- R201: records are applied in order, so a byte loaded twice holds the later value. -/
def loadImage (m : Memory) : List ImageRecord → Memory
  | [] => m
  | r :: rest => loadImage (m.writeBytes r.addr r.bytes) rest

/-- R200: the state before tick 0 of a run: the image in memory, every other field at reset. -/
def bootWith (cfg : Config) (image : List ImageRecord) : State :=
  let s := State.resetWith cfg
  { s with mem := { s.mem with bytes := loadImage s.mem.bytes image } }

/-- R79, R83, R87: at most `n` ticks of a run, stopping where the driver stops. A fault leaves the state of the tick
before it with the status Faulted (R83); a refused program stays where it was refused. -/
def runTicks (cfg : Config) : Nat → State → State
  | 0, s => s
  | n + 1, s =>
    match stepWith cfg s with
    | .next t => runTicks cfg n t
    | .fault (.host k) => faultedState s k
    | .fault (.runEnded _) => s
    | .refused _ => s

/-- R204: the exit code a stopped run returns; a fault has none. -/
def exitCode (cfg : Config) (status : RunStatus) : Option (BitVec 8) :=
  match status with
  | .halted code => some code
  | .capped => some cfg.capExitCode
  | .faulted _ => none
  | .running => none

/-- R205: the architectural observation. -/
structure Observation where
  exit : BitVec 8
  regs : Vector Word nRegs
  memory : Memory
  deriving DecidableEq, Repr

/-- R205: what is observed of a run that ends Halted: the exit code, the registers and the committed memory. -/
def observe (s : State) : Option Observation :=
  match s.drv.status with
  | .halted code => some { exit := code, regs := s.rf.value, memory := committedMemory s.mem }
  | .capped => none
  | .faulted _ => none
  | .running => none

end Sys2Proof.Machine
end

