-- ==== Sys2Proof/Machine/Step.lean ====
section
/-! DEFINITION. The step: one tick of the running machine (spec/40_clock_and_bus.md R79), with the instruction that
decode reads at the speculated PC. -/

namespace Sys2Proof.Machine

/-- R79, R87, R104: in a running machine, the tick of the instruction whose word is at the speculated PC, or of the
Unknown word there (R105). A run that has ended takes no further tick. -/
def step (s : State) : Host.Outcome State Fault Refusal :=
  match s.drv.status with
  | .running =>
    match decodeWord Config.core (fetchWord s) with
    | .ok i => exec i s
    | .error _ => unknownTick (fetchWord s) s
  | .halted _ => endedRun s
  | .faulted _ => endedRun s
  | .capped => endedRun s

/-- The state with one word of the opcode table stored where `step` fetches next, at the speculated PC (R47), in the
hardware's byte order (R43); the bits from `nbits` up are 0. It stands for the loading of a program image (R201). -/
def State.withFetchWord (s : State) (nbits w : Nat) : State :=
  { s with
    mem :=
      { s.mem with
        bytes := s.mem.bytes.store .word s.csu.specPc (BitVec.ofNat 32 (w % 2 ^ nbits)) } }

end Sys2Proof.Machine
end

