-- ==== Sys2Proof/Machine/Assembler.lean ====
section
/-! DEFINITION. How instructions are written (spec/10_state.md R15, spec/30_encoding.md R76, R77): the names of the
registers, the text of an instruction, and the base instructions each assembler pseudo-instruction stands for. The
machine does not use them: a pseudo-instruction has no meaning of its own. -/

namespace Sys2Proof

/-! ### Names (R15) -/

/-- R15: the ABI names, x0 first. -/
def abiNames : List String :=
  ["zero", "ra", "sp", "gp", "tp", "t0", "t1", "t2", "s0", "s1", "a0", "a1", "a2", "a3", "a4", "a5"] ++
    ["a6", "a7", "s2", "s3", "s4", "s5", "s6", "s7", "s8", "s9", "s10", "s11", "t3", "t4", "t5", "t6"]

/-- R15: the ABI name of a register (x8 has a second one, fp). -/
def abiName (r : RegIdx) : String := abiNames.getD r.toNat ""

/-- R76: the `x<n>` name of a register. -/
def regName (r : RegIdx) : String := "x" ++ toString r.toNat

/-- R69: the mnemonic of a class. -/
def OpClass.mnemonic : OpClass → String
  | .lui => "lui"
  | .auipc => "auipc"
  | .jal => "jal"
  | .jalr => "jalr"
  | .beq => "beq"
  | .bne => "bne"
  | .blt => "blt"
  | .bge => "bge"
  | .bltu => "bltu"
  | .bgeu => "bgeu"
  | .lb => "lb"
  | .lh => "lh"
  | .lw => "lw"
  | .lbu => "lbu"
  | .lhu => "lhu"
  | .sb => "sb"
  | .sh => "sh"
  | .sw => "sw"
  | .addi => "addi"
  | .slti => "slti"
  | .sltiu => "sltiu"
  | .xori => "xori"
  | .ori => "ori"
  | .andi => "andi"
  | .slli => "slli"
  | .srli => "srli"
  | .srai => "srai"
  | .add => "add"
  | .sub => "sub"
  | .sll => "sll"
  | .slt => "slt"
  | .sltu => "sltu"
  | .xor => "xor"
  | .srl => "srl"
  | .sra => "sra"
  | .or => "or"
  | .and => "and"
  | .halt => "halt"

/-! ### The text of an instruction (R76) -/

/-- Three operands separated by commas. -/
def text3 (c : OpClass) (x y z : String) : String := c.mnemonic ++ " " ++ x ++ "," ++ y ++ "," ++ z

/-- Two operands separated by a comma. -/
def text2 (c : OpClass) (x y : String) : String := c.mnemonic ++ " " ++ x ++ "," ++ y

/-- A memory operand, `offset(base)`. -/
def textMem (imm : BitVec 12) (rs1 : RegIdx) : String := toString imm.toInt ++ "(" ++ regName rs1 ++ ")"

/-- R76: the operand order of each form. A branch's and a jal's target is written as its byte offset. -/
def Instr.text : Instr → String
  | .lui rd imm => text2 .lui (regName rd) (toString imm.toNat)
  | .auipc rd imm => text2 .auipc (regName rd) (toString imm.toNat)
  | .jal rd off => text2 .jal (regName rd) (toString off.toInt)
  | .jalr rd rs1 imm => text2 .jalr (regName rd) (textMem imm rs1)
  | .beq rs1 rs2 off => text3 .beq (regName rs1) (regName rs2) (toString off.toInt)
  | .bne rs1 rs2 off => text3 .bne (regName rs1) (regName rs2) (toString off.toInt)
  | .blt rs1 rs2 off => text3 .blt (regName rs1) (regName rs2) (toString off.toInt)
  | .bge rs1 rs2 off => text3 .bge (regName rs1) (regName rs2) (toString off.toInt)
  | .bltu rs1 rs2 off => text3 .bltu (regName rs1) (regName rs2) (toString off.toInt)
  | .bgeu rs1 rs2 off => text3 .bgeu (regName rs1) (regName rs2) (toString off.toInt)
  | .lb rd rs1 imm => text2 .lb (regName rd) (textMem imm rs1)
  | .lh rd rs1 imm => text2 .lh (regName rd) (textMem imm rs1)
  | .lw rd rs1 imm => text2 .lw (regName rd) (textMem imm rs1)
  | .lbu rd rs1 imm => text2 .lbu (regName rd) (textMem imm rs1)
  | .lhu rd rs1 imm => text2 .lhu (regName rd) (textMem imm rs1)
  | .sb rs1 rs2 imm => text2 .sb (regName rs2) (textMem imm rs1)
  | .sh rs1 rs2 imm => text2 .sh (regName rs2) (textMem imm rs1)
  | .sw rs1 rs2 imm => text2 .sw (regName rs2) (textMem imm rs1)
  | .addi rd rs1 imm => text3 .addi (regName rd) (regName rs1) (toString imm.toInt)
  | .slti rd rs1 imm => text3 .slti (regName rd) (regName rs1) (toString imm.toInt)
  | .sltiu rd rs1 imm => text3 .sltiu (regName rd) (regName rs1) (toString imm.toInt)
  | .xori rd rs1 imm => text3 .xori (regName rd) (regName rs1) (toString imm.toInt)
  | .ori rd rs1 imm => text3 .ori (regName rd) (regName rs1) (toString imm.toInt)
  | .andi rd rs1 imm => text3 .andi (regName rd) (regName rs1) (toString imm.toInt)
  | .slli rd rs1 shamt => text3 .slli (regName rd) (regName rs1) (toString shamt.toNat)
  | .srli rd rs1 shamt => text3 .srli (regName rd) (regName rs1) (toString shamt.toNat)
  | .srai rd rs1 shamt => text3 .srai (regName rd) (regName rs1) (toString shamt.toNat)
  | .add rd rs1 rs2 => text3 .add (regName rd) (regName rs1) (regName rs2)
  | .sub rd rs1 rs2 => text3 .sub (regName rd) (regName rs1) (regName rs2)
  | .sll rd rs1 rs2 => text3 .sll (regName rd) (regName rs1) (regName rs2)
  | .slt rd rs1 rs2 => text3 .slt (regName rd) (regName rs1) (regName rs2)
  | .sltu rd rs1 rs2 => text3 .sltu (regName rd) (regName rs1) (regName rs2)
  | .xor rd rs1 rs2 => text3 .xor (regName rd) (regName rs1) (regName rs2)
  | .srl rd rs1 rs2 => text3 .srl (regName rd) (regName rs1) (regName rs2)
  | .sra rd rs1 rs2 => text3 .sra (regName rd) (regName rs1) (regName rs2)
  | .or rd rs1 rs2 => text3 .or (regName rd) (regName rs1) (regName rs2)
  | .and rd rs1 rs2 => text3 .and (regName rd) (regName rs1) (regName rs2)
  | .halt => OpClass.halt.mnemonic

/-! ### Pseudo-instructions (R77) -/

/-- R77: one constructor per row of its table. A target is given as its distance from the pc of the first word. -/
inductive Pseudo where
  | nop
  | li (rd : RegIdx) (imm : Word)
  | mv (rd rs : RegIdx)
  | not (rd rs : RegIdx)
  | neg (rd rs : RegIdx)
  | seqz (rd rs : RegIdx)
  | snez (rd rs : RegIdx)
  | sltz (rd rs : RegIdx)
  | sgtz (rd rs : RegIdx)
  | beqz (rs : RegIdx) (off : BitVec 13)
  | bnez (rs : RegIdx) (off : BitVec 13)
  | blez (rs : RegIdx) (off : BitVec 13)
  | bgez (rs : RegIdx) (off : BitVec 13)
  | bltz (rs : RegIdx) (off : BitVec 13)
  | bgtz (rs : RegIdx) (off : BitVec 13)
  | bgt (a b : RegIdx) (off : BitVec 13)
  | ble (a b : RegIdx) (off : BitVec 13)
  | bgtu (a b : RegIdx) (off : BitVec 13)
  | bleu (a b : RegIdx) (off : BitVec 13)
  | j (off : BitVec 21)
  | jalRa (off : BitVec 21)
  | jr (rs : RegIdx)
  | jalrRa (rs : RegIdx)
  | ret
  | call (d : Word)
  | tail (d : Word)
  | la (rd : RegIdx) (d : Word)
  | halt
  deriving DecidableEq, Repr

/-- R77: `hi(d) = (d + 0x800) >> 12`. -/
def hi20 (d : Word) : BitVec 20 := (d + 0x800#32).extractLsb' 12 20

/-- R77: `lo(d) = d - (hi(d) << 12)`, which fits in 12 bits. -/
def lo12 (d : Word) : BitVec 12 := d.extractLsb' 0 12

/-- R77: the base instructions a pseudo-instruction is written for, in order. `li` takes the one-word form when the
value is the sign extension of its low 12 bits, which is when it lies in -2048..2047. -/
def Pseudo.expand : Pseudo → List Instr
  | .nop => [.addi 0#5 0#5 0#12]
  | .li rd imm =>
    if (lo12 imm).signExtend 32 = imm then [.addi rd 0#5 (lo12 imm)]
    else [.lui rd (hi20 imm), .addi rd rd (lo12 imm)]
  | .mv rd rs => [.addi rd rs 0#12]
  | .not rd rs => [.xori rd rs 0xFFF#12]
  | .neg rd rs => [.sub rd 0#5 rs]
  | .seqz rd rs => [.sltiu rd rs 1#12]
  | .snez rd rs => [.sltu rd 0#5 rs]
  | .sltz rd rs => [.slt rd rs 0#5]
  | .sgtz rd rs => [.slt rd 0#5 rs]
  | .beqz rs off => [.beq rs 0#5 off]
  | .bnez rs off => [.bne rs 0#5 off]
  | .blez rs off => [.bge 0#5 rs off]
  | .bgez rs off => [.bge rs 0#5 off]
  | .bltz rs off => [.blt rs 0#5 off]
  | .bgtz rs off => [.blt 0#5 rs off]
  | .bgt a b off => [.blt b a off]
  | .ble a b off => [.bge b a off]
  | .bgtu a b off => [.bltu b a off]
  | .bleu a b off => [.bgeu b a off]
  | .j off => [.jal 0#5 off]
  | .jalRa off => [.jal 1#5 off]
  | .jr rs => [.jalr 0#5 rs 0#12]
  | .jalrRa rs => [.jalr 1#5 rs 0#12]
  | .ret => [.jalr 0#5 1#5 0#12]
  | .call d => [.auipc 1#5 (hi20 d), .jalr 1#5 1#5 (lo12 d)]
  | .tail d => [.auipc 6#5 (hi20 d), .jalr 0#5 6#5 (lo12 d)]
  | .la rd d => [.auipc rd (hi20 d), .addi rd rd (lo12 d)]
  | .halt => [.halt]

end Sys2Proof
end

