-- ==== Sys2Proof/Machine/Reference.lean ====
section
/-! DEFINITION. The architectural semantics (spec/42_csu_rob.md R116): the sequential, one instruction at a time
reading of the "Architectural:" clauses of spec/45 to 48, in the primitives of spec/00_scope.md R10, and the
architectural state that a tick-level state stands for. It is the oracle the machine is compared with; `step` does
not use it. -/

namespace Sys2Proof.Machine

/-- R10, R116: the registers, the pc and the memory. -/
structure ArchState where
  regs : Vector Word nRegs
  pc : Addr
  mem : Memory
  deriving DecidableEq, Repr

/-- R116: one instruction executed, the halt sentinel reached (R182), or an unknown word reached. -/
inductive ArchOutcome where
  | next (a : ArchState)
  | halt (code : BitVec 8)
  | unknown (pc : Addr) (word : Word)
  deriving DecidableEq, Repr

/-- R10: `x[i]` reads architectural register i; `x[0]` always reads 0. -/
def ArchState.x (a : ArchState) (r : RegIdx) : Word :=
  if r = 0#5 then 0#32 else a.regs[r.toNat]'r.isLt

/-- R10: `x[rd] <- v; pc <- target`. -/
def ArchState.write (a : ArchState) (rd : RegIdx) (v : Word) (target : Addr) : ArchOutcome :=
  .next { a with regs := setReg a.regs rd v, pc := target }

/-- R164: `if cond then pc <- pc + imm_B else pc <- pc + 4`. -/
def ArchState.branch (a : ArchState) (taken : Bool) (off : BitVec 13) : ArchOutcome :=
  .next { a with pc := if taken then a.pc + immediateB off else a.pc + 4#32 }

/-- R174 to R178: `x[rd] <- ext(MemRead(x[rs1] + imm_I, n)); pc <- pc + 4`. -/
def ArchState.load (a : ArchState) (w : Width) (signed : Bool) (rd rs1 : RegIdx) (imm : BitVec 12) : ArchOutcome :=
  a.write rd (a.mem.load w signed (a.x rs1 + immediate12 imm)) (a.pc + 4#32)

/-- R179 to R181: `MemWrite(x[rs1] + imm_S, n, x[rs2]); pc <- pc + 4`. -/
def ArchState.store (a : ArchState) (w : Width) (rs1 rs2 : RegIdx) (imm : BitVec 12) : ArchOutcome :=
  .next { a with mem := a.mem.store w (a.x rs1 + immediate12 imm) (a.x rs2), pc := a.pc + 4#32 }

/-- R116: the architectural effect of each instruction. -/
def archExec (i : Instr) (a : ArchState) : ArchOutcome :=
  match i with
  | .lui rd imm => a.write rd (immediateU imm) (a.pc + 4#32)
  | .auipc rd imm => a.write rd (a.pc + immediateU imm) (a.pc + 4#32)
  | .jal rd off => a.write rd (a.pc + 4#32) (a.pc + immediateJ off)
  | .jalr rd rs1 imm => a.write rd (a.pc + 4#32) ((a.x rs1 + immediate12 imm) &&& 0xFFFFFFFE#32)
  | .beq rs1 rs2 off => a.branch (condBeq (a.x rs1) (a.x rs2)) off
  | .bne rs1 rs2 off => a.branch (condBne (a.x rs1) (a.x rs2)) off
  | .blt rs1 rs2 off => a.branch (condBlt (a.x rs1) (a.x rs2)) off
  | .bge rs1 rs2 off => a.branch (condBge (a.x rs1) (a.x rs2)) off
  | .bltu rs1 rs2 off => a.branch (condBltu (a.x rs1) (a.x rs2)) off
  | .bgeu rs1 rs2 off => a.branch (condBgeu (a.x rs1) (a.x rs2)) off
  | .lb rd rs1 imm => a.load .byte true rd rs1 imm
  | .lh rd rs1 imm => a.load .half true rd rs1 imm
  | .lw rd rs1 imm => a.load .word false rd rs1 imm
  | .lbu rd rs1 imm => a.load .byte false rd rs1 imm
  | .lhu rd rs1 imm => a.load .half false rd rs1 imm
  | .sb rs1 rs2 imm => a.store .byte rs1 rs2 imm
  | .sh rs1 rs2 imm => a.store .half rs1 rs2 imm
  | .sw rs1 rs2 imm => a.store .word rs1 rs2 imm
  | .addi rd rs1 imm => a.write rd (a.x rs1 + immediate12 imm) (a.pc + 4#32)
  | .slti rd rs1 imm => a.write rd (boolWord (lessSigned (a.x rs1) (immediate12 imm))) (a.pc + 4#32)
  | .sltiu rd rs1 imm => a.write rd (boolWord (lessUnsigned (a.x rs1) (immediate12 imm))) (a.pc + 4#32)
  | .xori rd rs1 imm => a.write rd (a.x rs1 ^^^ immediate12 imm) (a.pc + 4#32)
  | .ori rd rs1 imm => a.write rd (a.x rs1 ||| immediate12 imm) (a.pc + 4#32)
  | .andi rd rs1 imm => a.write rd (a.x rs1 &&& immediate12 imm) (a.pc + 4#32)
  | .slli rd rs1 shamt => a.write rd (a.x rs1 <<< shamt.toNat) (a.pc + 4#32)
  | .srli rd rs1 shamt => a.write rd (a.x rs1 >>> shamt.toNat) (a.pc + 4#32)
  | .srai rd rs1 shamt => a.write rd (sra (a.x rs1) shamt) (a.pc + 4#32)
  | .add rd rs1 rs2 => a.write rd (a.x rs1 + a.x rs2) (a.pc + 4#32)
  | .sub rd rs1 rs2 => a.write rd (a.x rs1 - a.x rs2) (a.pc + 4#32)
  | .sll rd rs1 rs2 => a.write rd (a.x rs1 <<< (shiftAmount (a.x rs2)).toNat) (a.pc + 4#32)
  | .slt rd rs1 rs2 => a.write rd (boolWord (lessSigned (a.x rs1) (a.x rs2))) (a.pc + 4#32)
  | .sltu rd rs1 rs2 => a.write rd (boolWord (lessUnsigned (a.x rs1) (a.x rs2))) (a.pc + 4#32)
  | .xor rd rs1 rs2 => a.write rd (a.x rs1 ^^^ a.x rs2) (a.pc + 4#32)
  | .srl rd rs1 rs2 => a.write rd (a.x rs1 >>> (shiftAmount (a.x rs2)).toNat) (a.pc + 4#32)
  | .sra rd rs1 rs2 => a.write rd (sra (a.x rs1) (shiftAmount (a.x rs2))) (a.pc + 4#32)
  | .or rd rs1 rs2 => a.write rd (a.x rs1 ||| a.x rs2) (a.pc + 4#32)
  | .and rd rs1 rs2 => a.write rd (a.x rs1 &&& a.x rs2) (a.pc + 4#32)
  | .halt => ArchOutcome.halt ((a.x 10#5).setWidth 8)

/-- R116: fetch `MemRead(pc, 4)`, decode it and apply its rule. -/
def archStep (cfg : Config) (a : ArchState) : ArchOutcome :=
  match decodeWord cfg (a.mem.read32 a.pc) with
  | .ok i => archExec i a
  | .error _ => .unknown a.pc (a.mem.read32 a.pc)

/-- The architectural state of a tick-level state: the registers with the value the RF stores in this tick (R91),
the actual PC (R17), and memory with every playback record undone but that of the entry in the commit latch, which
has committed (R55, R57, R189). -/
def archView (s : State) : ArchState :=
  { regs := rfValueNext s
    pc := s.csu.archPc
    mem := undoAll s.mem.bytes (recordsWhere s.mem fun i => !commitsSlot s i) }

end Sys2Proof.Machine
end

