-- ==== Sys2Proof/Safety.lean ====
section
/-! DEFINITION. What counts as a safe run, in the terms the statements use: the faults that mean a bug of the machine
(spec/60_exceptions.md R190), the invariants of the units, and the quiet machine, one with nothing in flight. -/

namespace Sys2Proof.Machine

/-! ### Faults (R190) -/

/-- R190: the kinds "unreachable in a run of this spec", codes 2 to 7. -/
def HostFault.isInternal (k : HostFault) : Bool := decide (2 ≤ k.code)

/-- A step does not stop on a bug of the machine. -/
def NoInternalFault (o : Host.Outcome State Fault Refusal) : Prop :=
  ∀ k : HostFault, k.isInternal = true → o ≠ .fault (.host k)

/-! ### Who holds the entries that are Executing -/

/-- The ROB indices of the records the ALU path holds: occupied RS slots, the dispatch latch, the ALU's output. -/
def aluHolds (s : State) : List RobIdx :=
  ((s.rs.slot.toList.filter fun e => e.state != .empty).map RsSlot.rob) ++
    (match s.rs.dispatch with
      | some d => [d.rob]
      | none => []) ++
    (match s.alu.out with
      | some o => [o.rob]
      | none => [])

/-- The ROB indices of the records the memory path holds: occupied LSQ entries, the request latch, the pending
request, Memory's output. -/
def memHolds (s : State) : List RobIdx :=
  ((s.lsq.entry.toList.filter fun e => e.state != .empty).map LsqEntry.rob) ++
    (match s.lsq.req with
      | some r => [r.rob]
      | none => []) ++
    (match s.mem.pending with
      | some r => [r.rob]
      | none => []) ++
    (match s.mem.out with
      | some o => [o.rob]
      | none => [])

/-- R30: entry `i` of the LSQ is among the `count` entries from the head on. -/
def lsqLive (q : Lsq) (i : LsqIdx) : Bool :=
  decide ((i.val + lsqSize - q.head.val) % lsqSize < q.count)

/-- The entry's instruction is a jalr whose target is not known yet. -/
def jalrUnresolved (e : RobEntry) : Prop :=
  e.cls = .jalr ∧ (e.state = .issued ∨ e.state = .executing)

/-! ### The invariant of the pipeline -/

/-- What holds between the units at the start of every tick. The rules cited say so of the parts; together they are
what makes the consistency faults unreachable (R190). -/
structure PipelineInv (s : State) : Prop where
  /-- R24 -/
  pointers : s.csu.pointersOk = true
  /-- R102: the entry in the issue latch is the Issued one, of the same class, on its way to its class's unit -/
  issueEntry : ∀ u, s.csu.issue = some u →
    (s.csu.rob[u.rob]).state = .issued ∧ (s.csu.rob[u.rob]).cls = u.cls ∧ u.unit = u.cls.unit
  /-- R102: no other entry is Issued -/
  issuedOnly : ∀ i : RobIdx, (s.csu.rob[i]).state = .issued → ∃ u, s.csu.issue = some u ∧ u.rob = i
  /-- R101: the ALU path holds the Executing entries of its classes, each once -/
  aluNodup : (aluHolds s).Nodup
  aluEntries : ∀ i : RobIdx,
    i ∈ aluHolds s ↔ (s.csu.rob[i]).state = .executing ∧ (s.csu.rob[i]).cls.unit = .rs
  /-- R101: the memory path holds the Executing entries of its classes, each once -/
  memNodup : (memHolds s).Nodup
  memEntries : ∀ i : RobIdx,
    i ∈ memHolds s ↔ (s.csu.rob[i]).state = .executing ∧ (s.csu.rob[i]).cls.unit = .lsq
  /-- R28, R29, R30: a record carries the class of its ROB entry -/
  slotClass : ∀ j : RsIdx, (s.rs.slot[j]).state ≠ .empty →
    (s.rs.slot[j]).cls = (s.csu.rob[(s.rs.slot[j]).rob]).cls
  dispatchClass : ∀ d, s.rs.dispatch = some d → d.cls = (s.csu.rob[d.rob]).cls
  lsqClass : ∀ j : LsqIdx, (s.lsq.entry[j]).state ≠ .empty →
    (s.lsq.entry[j]).cls = (s.csu.rob[(s.lsq.entry[j]).rob]).cls
  /-- R118: the state of a record follows from its operands -/
  slotState : ∀ j : RsIdx, (s.rs.slot[j]).state ≠ .empty →
    (s.rs.slot[j]).state = slotStateOf (s.rs.slot[j]).op1 (s.rs.slot[j]).op2
  lsqState : ∀ j : LsqIdx, (s.lsq.entry[j]).state ≠ .empty →
    (s.lsq.entry[j]).state = slotStateOf (s.lsq.entry[j]).op1 (s.lsq.entry[j]).op2
  /-- R30 -/
  lsqCount : s.lsq.count ≤ lsqSize
  lsqTail : s.lsq.tail.val = (s.lsq.head.val + s.lsq.count) % lsqSize
  lsqOccupied : ∀ j : LsqIdx, (s.lsq.entry[j]).state ≠ .empty ↔ lsqLive s.lsq j = true
  /-- R106: the unit has a place for the record in the issue latch -/
  roomRs : ∀ u, s.csu.issue = some u → u.unit = .rs → ∃ j : RsIdx, (s.rs.slot[j]).state = .empty
  roomLsq : ∀ u, s.csu.issue = some u → u.unit = .lsq → s.lsq.count < lsqSize
  /-- R50 to R52: Memory is Free exactly when it holds no request -/
  memFree : s.mem.state = .free ↔ s.mem.pending = none
  /-- R126, R127: a request in the latch finds Memory Free, and is valid -/
  reqFree : ∀ r, s.lsq.req = some r → s.mem.state = .free ∧ requestValid r.type = true
  pendingValid : ∀ r, s.mem.pending = some r → requestValid r.type = true
  /-- R22, R112: while a jalr is unresolved issue waits, so there is at most one -/
  jalrStalls : ∀ i : RobIdx, jalrUnresolved s.csu.rob[i] → s.csu.jalrWait = true
  jalrUnique : ∀ i j : RobIdx, jalrUnresolved s.csu.rob[i] → jalrUnresolved s.csu.rob[j] → i = j
  /-- R99: the entry in the commit latch has left the ROB -/
  commitGone : ∀ k, s.csu.commit = some k → (s.csu.rob[k.rob]).state = .empty
  /-- R94, R103: nothing was issued in the tick that raised a flush -/
  flushNoIssue : s.csu.flushReq = true → s.csu.issue = none

/-- What holds of the playback records (R33, R54 to R56): each is of a performed store that has not been discarded,
older than the next timestamp, with the bytes of its width; and memory is in canonical form. -/
structure PlaybackInv (s : State) : Prop where
  memory : s.mem.bytes.wf = true
  owner : ∀ i : RobIdx, ∀ r, s.mem.playback[i] = some r →
    (s.csu.rob[i]).state = .readyToCommit ∨ (∃ o, s.mem.out = some o ∧ o.rob = i) ∨ commitsSlot s i = true
  past : ∀ i : RobIdx, ∀ r, s.mem.playback[i] = some r → r.ts < s.mem.wcount
  distinct : ∀ i j : RobIdx, ∀ r q, s.mem.playback[i] = some r → s.mem.playback[j] = some q →
    r.ts = q.ts → i = j
  length : ∀ i : RobIdx, ∀ r, s.mem.playback[i] = some r → r.old.length = r.len.bytes

/-- R14, R16, R95: register 0 reads as 0 from its cell too, and is never tracked. -/
structure ZeroRegInv (s : State) : Prop where
  value : s.rf.value[0] = 0#32
  busy : s.rf.busy[0] = false
  rob : ∀ i : RobIdx, (s.csu.rob[i]).hasRd = true → (s.csu.rob[i]).rd ≠ 0#5
  issue : ∀ u, s.csu.issue = some u → u.hasRd = true → u.rd ≠ 0#5
  commit : ∀ k, s.csu.commit = some k → k.hasRd = true → k.rd ≠ 0#5

/-- R96: entry `i` is live, is not the one in the issue latch, and will write `r`. -/
def willWrite (s : State) (r : RegIdx) (i : RobIdx) : Prop :=
  s.csu.live i = true ∧ (∀ u, s.csu.issue = some u → u.rob ≠ i) ∧
    (s.csu.rob[i]).hasRd = true ∧ (s.csu.rob[i]).rd = r

/-- How far behind the head an entry is: its age order in the buffer. -/
def robAge (c : Csu) (i : RobIdx) : Nat := (i.val + robSize - c.robHead.val) % robSize

/-- R96: `i` is the youngest entry that will write `r`. -/
def youngestWriter (s : State) (r : RegIdx) (i : RobIdx) : Prop :=
  willWrite s r i ∧ ∀ j, willWrite s r j → robAge s.csu j ≤ robAge s.csu i

/-- R96: what the producer table says, in a tick that is no flush tick. Where no such entry exists and the register
is still marked, the mark is the one that the RF clears in this tick. -/
def ProducerTableOk (s : State) : Prop :=
  s.csu.flushReq = false → ∀ r : RegIdx, r ≠ 0#5 →
    (∀ i, youngestWriter s r i → s.rf.isBusy r = true ∧ s.rf.producerOf r = i) ∧
    ((∀ i, ¬ willWrite s r i) →
      s.rf.isBusy r = false ∨
          ∃ k, s.csu.commit = some k ∧ k.hasRd = true ∧ k.rd = r ∧ s.rf.producerOf r = k.rob)

/-- R26, R108: the issue latch and the ROB entry it names agree on the destination, and that entry is the last one
allocated. -/
def issueLatchAgrees (s : State) : Prop :=
  ∀ u, s.csu.issue = some u →
    (s.csu.rob[u.rob]).hasRd = u.hasRd ∧ (s.csu.rob[u.rob]).rd = u.rd ∧ u.rob + 1 = s.csu.robTail

/-! ### The quiet machine -/

/-- A running machine with nothing in flight: every buffer empty, every latch invalid, Memory Free, nothing
speculated, and the instruction at the PC not written by a store. It is the state at reset but for the contents of
the registers and of memory, the PC, and where the buffers' pointers and the counters stand. -/
structure Quiet (s : State) : Prop where
  running : s.drv.status = .running
  notMarked : haltMarked Config.core s.csu = false
  robEmpty : ∀ i : RobIdx, (s.csu.rob[i]).state = .empty
  robPointers : s.csu.robTail = s.csu.robHead
  robCount : s.csu.robCount = 0
  noFlush : s.csu.flushReq = false
  noWait : s.csu.jalrWait = false
  noIssue : s.csu.issue = none
  noCommit : s.csu.commit = none
  pcs : s.csu.specPc = s.csu.archPc
  rsEmpty : ∀ j : RsIdx, (s.rs.slot[j]).state = .empty
  noDispatch : s.rs.dispatch = none
  lsqEmpty : ∀ j : LsqIdx, (s.lsq.entry[j]).state = .empty
  lsqPointers : s.lsq.tail = s.lsq.head
  lsqCount : s.lsq.count = 0
  noRequest : s.lsq.req = none
  noAluOut : s.alu.out = none
  memFree : s.mem.state = .free
  noPending : s.mem.pending = none
  noMemOut : s.mem.out = none
  noPlayback : ∀ i : RobIdx, s.mem.playback[i] = none
  notBusy : ∀ r : RegIdx, s.rf.isBusy r = false
  guardPending : s.guard.pending = []
  admitted : fetchesStored s s.csu.specPc = false

/-- The outcome is a next state, and `k` ticks later the machine's architectural state is `a`. -/
def Completes (o : Host.Outcome State Fault Refusal) (k : Nat) (a : ArchState) : Prop :=
  ∃ t u, o = .next t ∧ Host.Core.run Sys2Proof.core k t = .next u ∧ archView u = a

/-! ### What an instruction leaves in the architectural state of a quiet machine -/

/-- `x[rd] <- v; pc <- target`, and nothing else: a write to register 0 is discarded (R95). -/
def State.wrote (s : State) (rd : RegIdx) (v : Word) (target : Addr) : ArchState :=
  { regs := setReg s.rf.value rd v, pc := target, mem := s.mem.bytes }

/-- `x[rd] <- v; pc <- pc + 4`, and nothing else. -/
def State.computed (s : State) (rd : RegIdx) (v : Word) : ArchState := s.wrote rd v (s.csu.specPc + 4#32)

/-- `x[rd] <- ext(MemRead(x[rs1] + imm, n)); pc <- pc + 4`, and nothing else (R44, R171). -/
def State.loaded (s : State) (w : Width) (signed : Bool) (rd rs1 : RegIdx) (imm : BitVec 12) : ArchState :=
  s.computed rd (s.mem.bytes.load w signed (effectiveAddr (s.rf.read rs1) (immediate12 imm)))

/-- `MemWrite(x[rs1] + imm, n, x[rs2]); pc <- pc + 4`, and nothing else (R171). -/
def State.stored (s : State) (w : Width) (rs1 rs2 : RegIdx) (imm : BitVec 12) : ArchState :=
  { regs := s.rf.value
    pc := s.csu.specPc + 4#32
    mem := s.mem.bytes.store w (effectiveAddr (s.rf.read rs1) (immediate12 imm)) (s.rf.read rs2) }

/-- R164: the next PC of a conditional branch at the PC of `s`. -/
def State.branchTarget (s : State) (taken : Bool) (off : BitVec 13) : Addr :=
  if taken then s.csu.specPc + immediateB off else s.csu.specPc + 4#32

/-- `pc <- target`, and nothing else. -/
def State.branched (s : State) (taken : Bool) (off : BitVec 13) : ArchState :=
  { regs := s.rf.value, pc := s.branchTarget taken off, mem := s.mem.bytes }

/-- R115: the outcome is a next state, and `k` ticks later a flush is requested exactly if `missed`; the flush tick
then empties the ROB and fetches from `target`. -/
def FlushesTo (o : Host.Outcome State Fault Refusal) (k : Nat) (missed : Bool) (target : Addr) : Prop :=
  ∃ t u, o = .next t ∧ Host.Core.run Sys2Proof.core k t = .next u ∧ u.csu.flushReq = missed ∧
    (missed = true → ∃ v, step u = .next v ∧ v.csu.specPc = target ∧ v.csu.robCount = 0 ∧ v.csu.flushReq = false)

/-- R107: what the CSU guesses to be the address of the instruction after `i` at `pc`, with BRANCH_PREDICT = Taken; 0
for jalr, whose target is not guessed. -/
def guessedNext (i : Instr) (pc : Addr) : Addr :=
  match i with
  | .jal _ off => pc + immediateJ off
  | .beq _ _ off | .bne _ _ off | .blt _ _ off | .bge _ _ off | .bltu _ _ off | .bgeu _ _ off => pc + immediateB off
  | .jalr _ _ _ => 0#32
  | .lui _ _ | .auipc _ _ => pc + 4#32
  | .lb _ _ _ | .lh _ _ _ | .lw _ _ _ | .lbu _ _ _ | .lhu _ _ _ | .sb _ _ _ | .sh _ _ _ | .sw _ _ _ => pc + 4#32
  | .addi _ _ _ | .slti _ _ _ | .sltiu _ _ _ | .xori _ _ _ | .ori _ _ _ | .andi _ _ _ => pc + 4#32
  | .slli _ _ _ | .srli _ _ _ | .srai _ _ _ => pc + 4#32
  | .add _ _ _ | .sub _ _ _ | .sll _ _ _ | .slt _ _ _ | .sltu _ _ _ => pc + 4#32
  | .xor _ _ _ | .srl _ _ _ | .sra _ _ _ | .or _ _ _ | .and _ _ _ => pc + 4#32
  | .halt => pc + 4#32

/-- The operands an instruction has of its own (R66, R69): the registers its class reads, the one it writes, the
sign-extended immediate of its format, and the shift amount; `none` where its class has none. -/
structure InstrOperands where
  rs1 : Option RegIdx
  rs2 : Option RegIdx
  rd : Option RegIdx
  imm : Option Word
  shamt : Option (BitVec 5)
  deriving DecidableEq, Repr

/-- R66, R69, row by row of the table. -/
def operandsOf (i : Instr) : InstrOperands :=
  match i with
  | .lui rd imm | .auipc rd imm => ⟨none, none, some rd, some (imm ++ 0#12), none⟩
  | .jal rd off => ⟨none, none, some rd, some (off.signExtend 32), none⟩
  | .jalr rd rs1 imm => ⟨some rs1, none, some rd, some (imm.signExtend 32), none⟩
  | .beq rs1 rs2 off | .bne rs1 rs2 off | .blt rs1 rs2 off | .bge rs1 rs2 off | .bltu rs1 rs2 off
  | .bgeu rs1 rs2 off => ⟨some rs1, some rs2, none, some (off.signExtend 32), none⟩
  | .lb rd rs1 imm | .lh rd rs1 imm | .lw rd rs1 imm | .lbu rd rs1 imm | .lhu rd rs1 imm =>
    ⟨some rs1, none, some rd, some (imm.signExtend 32), none⟩
  | .sb rs1 rs2 imm | .sh rs1 rs2 imm | .sw rs1 rs2 imm =>
    ⟨some rs1, some rs2, none, some (imm.signExtend 32), none⟩
  | .addi rd rs1 imm | .slti rd rs1 imm | .sltiu rd rs1 imm | .xori rd rs1 imm | .ori rd rs1 imm
  | .andi rd rs1 imm => ⟨some rs1, none, some rd, some (imm.signExtend 32), none⟩
  | .slli rd rs1 shamt | .srli rd rs1 shamt | .srai rd rs1 shamt => ⟨some rs1, none, some rd, none, some shamt⟩
  | .add rd rs1 rs2 | .sub rd rs1 rs2 | .sll rd rs1 rs2 | .slt rd rs1 rs2 | .sltu rd rs1 rs2
  | .xor rd rs1 rs2 | .srl rd rs1 rs2 | .sra rd rs1 rs2 | .or rd rs1 rs2 | .and rd rs1 rs2 =>
    ⟨some rs1, some rs2, some rd, none, none⟩
  | .halt => ⟨none, none, none, none, none⟩

/-- R98: "state Empty, other fields 0". A class has no 0, and nothing is said of it (log entry 4). -/
structure RobEntry.isCleared (e : RobEntry) : Prop where
  state : e.state = .empty
  word : e.word = 0#32
  pc : e.pc = 0#32
  hasRd : e.hasRd = false
  rd : e.rd = 0#5
  value : e.value = 0#32
  specNext : e.specNext = 0#32
  pcReady : e.pcReady = false
  resolvedPc : e.resolvedPc = 0#32
  mismatch : e.mismatch = false

/-- R37: a slot that is Empty, its "other fields 0/None". A class has no 0, and nothing is said of it (log entry 4). -/
structure RsSlot.isCleared (e : RsSlot) : Prop where
  state : e.state = .empty
  op1 : e.op1 = .none
  op2 : e.op2 = .none
  imm : e.imm = 0#32
  shamt : e.shamt = 0#5
  pc : e.pc = 0#32
  rob : e.rob = 0

/-- The conditions on the state alone under which a tick can issue to unit `u`: no fault, no refusal, no flush, no
unresolved jalr, and room (R103, R106, R191). -/
structure CanIssue (s : State) (u : IssueUnit) : Prop where
  inv : PipelineInv s
  noFlush : s.csu.flushReq = false
  noFlushNow : s.csu.flushNow = false
  noWait : s.csu.jalrWait = false
  room : canIssue Config.core s u = true
  admitted : s.csu.commits = true → fetchesStored s s.csu.headEntry.pc = false

end Sys2Proof.Machine
end

