-- ==== Sys2Proof/Certificates/Slice0/Obligations.lean ====
section
/-! DEFINITION. The statements for the provers, from the spec's numbered rules. `exec i s` is a whole tick in which `i` is
the instruction at the speculated PC (log entry 1), so a statement about one tick speaks of every unit, and one about
an instruction's own effect follows it to the tick in which it commits. -/

section Statements

open Sys2Proof Sys2Proof.Machine

/-! ### The step -/

/-- For every state whose status is Running and whose word at the speculated PC decodes to an instruction i, step is
exec i at that state: exec i is the whole tick, so step adds nothing around it. (spec/40_clock_and_bus.md R79,
spec/42_csu_rob.md R104.) -/
def Obligations.StepRunsDecodedInstruction : Prop :=
  ∀ (s : State) (i : Instr), s.drv.status = .running → decodeWord Config.core (fetchWord s) = .ok i →
    step s = exec i s

/-- For every running state whose memory is in canonical form and every well-formed instruction i: after withFetchWord
stores the 32 bits of its encoding at the speculated PC, the fetch reads exactly that word, decodeTableWord reads i
from it, and step is exec i. (spec/20_memory.md R43 and R47, spec/42_csu_rob.md R104.) -/
def Obligations.StepRunsThePlacedWord : Prop :=
  ∀ (s : State) (i : Instr), s.drv.status = .running → s.mem.bytes.wf = true → i.wellFormed = true →
    fetchWord (s.withFetchWord 32 (encode i).toNat) = encode i ∧
      decodeTableWord 32 (encode i).toNat = some i ∧
      step (s.withFetchWord 32 (encode i).toNat) = exec i (s.withFetchWord 32 (encode i).toNat)

/-- For every running state in which an issue attempt is made (no flush, no flush raised, no jalr pending) at an unknown
word: with the ROB empty, and no byte of the word changed by a store (the refusal of R61, log entry 7), step is the
fault IllegalInstruction with the speculated PC and the word; under ILLEGAL_POLICY = Immediate the tick is that
fault whatever the ROB holds, unless R61 refuses the tick. (spec/42_csu_rob.md R105, spec/60_exceptions.md R190 and
R192.) -/
def Obligations.UnknownWordFaultsOnceRobIsEmpty : Prop :=
  ∀ (s : State) (e : DecodeReject), s.drv.status = .running →
    decodeWord Config.core (fetchWord s) = .error e →
    s.csu.flushReq = false → s.csu.flushNow = false → s.csu.jalrWait = false →
    (s.csu.robCount = 0 → fetchesStored s s.csu.specPc = false →
      step s = .fault (.host (.illegalInstruction s.csu.specPc (fetchWord s)))) ∧
    (refusedFetch (.unknown (fetchWord s)) s = none →
      stepWith { Config.core with illegalPolicy := .immediate } s =
        .fault (.host (.illegalInstruction s.csu.specPc (fetchWord s))))

/-- For every running state with the pipeline invariant, an unknown word at the speculated PC and a ROB that is not
empty (and a committing head whose word no store changed, log entry 7): step answers a next state in which nothing
was issued; out of a flush tick the ROB tail is unchanged, and unless a jalr is pending the speculated PC is too, so
the attempt is repeated. (spec/42_csu_rob.md R105.) -/
def Obligations.UnknownWordStallsBehindOlderEntries : Prop :=
  ∀ (s : State) (e : DecodeReject), s.drv.status = .running →
    decodeWord Config.core (fetchWord s) = .error e → PipelineInv s → 0 < s.csu.robCount →
    (s.csu.commits = true → fetchesStored s s.csu.headEntry.pc = false) →
    ∃ t, step s = .next t ∧ t.csu.issue = none ∧
      (s.csu.flushReq = false → t.csu.robTail = s.csu.robTail ∧
        (s.csu.jalrWait = false → t.csu.specPc = s.csu.specPc))

/-- For every state whose status is Halted, Faulted or Capped, step is the fault runEnded with that status. That a step
of an ended run is a fault of this name is the model's choice (log entry 2). (spec/40_clock_and_bus.md R83 and R87,
notes/assumptions/2.md.) -/
def Obligations.EndedRunTakesNoStep : Prop :=
  ∀ s : State, s.drv.status ≠ .running → step s = .fault (.runEnded s.drv.status)

/-! ### Encoding and decode -/

/-- For every well-formed instruction i, decoding the word the encoder builds for it gives i; and laid out as four
little-endian bytes followed by any others, decodeBytes gives i and exactly the others. (spec/30_encoding.md R64,
R66, R69, R70 and R71.) -/
def Obligations.DecodeOfEncode : Prop :=
  ∀ i : Instr, i.wellFormed = true →
    decodeWord Config.core (encode i) = .ok i ∧
      ∀ rest : List Byte, decodeBytes Config.core
        (byteOfWord (encode i) 0 :: byteOfWord (encode i) 1 :: byteOfWord (encode i) 2 :: byteOfWord (encode i) 3 ::
          rest) = .ok (i, rest)

/-- For every word w that decodes to an instruction i under STRICT_DECODE, i is well-formed and its encoding is w: no
bit of a decoded word is ignored, so two words never decode to one instruction. (spec/30_encoding.md R64, R66, R69
and R71.) -/
def Obligations.EncodeOfDecode : Prop :=
  ∀ (w : Word) (i : Instr), decodeWord Config.core w = .ok i → i.wellFormed = true ∧ encode i = w

/-- The example words of the spec for lui, auipc, slli, sub, jal, jalr, blt, lb, sb and halt, one of each opcode and
format, decode to the instructions the spec says they encode. (spec/45_integer.md R137, R138, R145, R149,
spec/46_control_transfer.md R162, R163, R167, spec/47_load_store.md R174, R179, spec/48_halt_and_system.md R182.) -/
def Obligations.WordsOfTheSpecDecode : Prop :=
  decodeWord Config.core 0x123452B7#32 = .ok (.lui 5#5 0x12345#20) ∧
    decodeWord Config.core 0x00001297#32 = .ok (.auipc 5#5 0x00001#20) ∧
    decodeWord Config.core 0x01F11093#32 = .ok (.slli 1#5 2#5 31#5) ∧
    decodeWord Config.core 0x402081B3#32 = .ok (.sub 3#5 1#5 2#5) ∧
    decodeWord Config.core 0xFFDFF06F#32 = .ok (.jal 0#5 (-4#21)) ∧
    decodeWord Config.core 0x003280E7#32 = .ok (.jalr 1#5 5#5 3#12) ∧
    decodeWord Config.core 0xFE20CCE3#32 = .ok (.blt 1#5 2#5 (-8#13)) ∧
    decodeWord Config.core 0x00010083#32 = .ok (.lb 1#5 2#5 0#12) ∧
    decodeWord Config.core 0x001100A3#32 = .ok (.sb 2#5 1#5 1#12) ∧
    decodeWord Config.core 0x0FF50513#32 = .ok .halt

/-- For every well-formed instruction other than halt, its class carries the full id that the formula opcode | funct3 <<
7 | fbit << 10 gives of its encoding, funct3 being 0 in the U and J formats and fbit the bit 30 in the R format and
the shift-immediates only; halt has none; and two classes with the same id are the same class. (spec/30_encoding.md
R67.) -/
def Obligations.FullIdsSeparateTheClasses : Prop :=
  (∀ i : Instr, i.wellFormed = true → i ≠ .halt →
    i.cls.fullId = some
      ((Field.opcode (encode i)).setWidth 11 |||
        ((if i.cls.row.format = .u ∨ i.cls.row.format = .j then 0#11
          else (Field.funct3 (encode i)).setWidth 11) <<< 7) |||
        ((if i.cls.row.format = .r ∨ i.cls.row.format = .shiftImm then
            ((encode i).extractLsb' 30 1).setWidth 11
          else 0#11) <<< 10))) ∧
    Instr.halt.cls.fullId = none ∧
    ∀ c d : OpClass, c.fullId = d.fullId → c = d

/-- The word 0x0FF50513 decodes as halt; a word that decodes as halt is that word; and addi x10, x10, 255, whose fields
it has, is decoded from no word at all. (spec/30_encoding.md R70, spec/92_eei_decisions.md D10.) -/
def Obligations.HaltWordBeforeEverything : Prop :=
  decodeWord Config.core 0x0FF50513#32 = .ok .halt ∧
    (∀ w : Word, decodeWord Config.core w = .ok .halt → w = 0x0FF50513#32) ∧
    (∀ w : Word, decodeWord Config.core w ≠ .ok (.addi 10#5 10#5 255#12)) ∧
    encodeI 0#3 0x13#7 10#5 10#5 255#12 = 0x0FF50513#32

/-- With STRICT_DECODE = false every word that decodes strictly decodes to the same instruction; an R-format word or
shift-immediate decodes alike whatever the funct7 bits other than bit 30 are; and the RV32M word mul x3, x1, x2
decodes as add, where strictly it is unknown. (spec/30_encoding.md R71 and R72, spec/92_eei_decisions.md D16.) -/
def Obligations.LooseDecodeLooksAtBit30Only : Prop :=
  (∀ (w : Word) (i : Instr), decodeWord Config.core w = .ok i →
    decodeWord { Config.core with strictDecode := false } w = .ok i) ∧
    (∀ (f7 g7 : BitVec 7) (f3 : BitVec 3) (rd rs1 rs2 : RegIdx) (i : Instr), f7.getLsbD 5 = g7.getLsbD 5 →
      decodeWord { Config.core with strictDecode := false } (encodeR f7 f3 0x33#7 rd rs1 rs2) = .ok i →
      decodeWord { Config.core with strictDecode := false } (encodeR g7 f3 0x33#7 rd rs1 rs2) = .ok i) ∧
    (∀ (f7 g7 : BitVec 7) (f3 : BitVec 3) (rd rs1 shamt : RegIdx) (i : Instr), f7.getLsbD 5 = g7.getLsbD 5 →
      f3 = 1#3 ∨ f3 = 5#3 →
      decodeWord { Config.core with strictDecode := false } (encodeR f7 f3 0x13#7 rd rs1 shamt) = .ok i →
      decodeWord { Config.core with strictDecode := false } (encodeR g7 f3 0x13#7 rd rs1 shamt) = .ok i) ∧
    decodeWord { Config.core with strictDecode := false } 0x022081B3#32 = .ok (.add 3#5 1#5 2#5) ∧
    decodeWord Config.core 0x022081B3#32 = .error (.unknownFunct7 0x022081B3#32)

/-- Decode refuses, by the name unknownOpcode, every word whose opcode is 0x0F (fence, fence.i) or 0x73 (ecall, ebreak,
the CSR and privileged encodings), and every word whose bits 1:0 are not 11. (spec/48_halt_and_system.md R183,
spec/30_encoding.md R68 and R71.) -/
def Obligations.SystemAndFenceWordsAreUnknown : Prop :=
  ∀ w : Word, (Field.opcode w = 0x0F#7 ∨ Field.opcode w = 0x73#7 ∨ w.extractLsb' 0 2 ≠ 3#2) →
    decodeWord Config.core w = .error (.unknownOpcode w)

/-- For every distance d, hi(d) shifted into bits 31:12 plus lo(d) sign-extended is d; and for every architectural
state, rd other than x0 and value v, if every instruction of the expansion of li rd, v is well-formed, executing the
one or two of them leaves v in rd, every other register and memory unchanged, and the pc past them. If one is not
(log entry 22), rd is x10, and the second of the two has the word HALT_WORD (R70), which is the halt sentinel and no
addi. (spec/30_encoding.md R70 and R77, notes/assumptions/22.md.) -/
def Obligations.PseudoInstructionsRebuildTheirOperand : Prop :=
  (∀ d : Word, (hi20 d ++ 0#12) + (lo12 d).signExtend 32 = d) ∧
    (∀ (a : ArchState) (rd : RegIdx) (v : Word), rd ≠ 0#5 →
      (∀ i ∈ (Pseudo.li rd v).expand, i.wellFormed = true) →
      (Pseudo.li rd v).expand.foldl
          (fun o i => match o with
            | .next b => archExec i b
            | .halt c => .halt c
            | .unknown pc w => .unknown pc w)
          (ArchOutcome.next a) =
        .next { regs := setReg a.regs rd v
                pc := a.pc + 4#32 * BitVec.ofNat 32 (Pseudo.li rd v).expand.length
                mem := a.mem }) ∧
    ∀ (rd : RegIdx) (v : Word), (∃ i ∈ (Pseudo.li rd v).expand, i.wellFormed = false) →
      rd = 10#5 ∧ lo12 v = 255#12 ∧
        ∃ first second, (Pseudo.li rd v).expand = [first, second] ∧ encode second = 0x0FF50513#32 ∧
          decodeWord Config.core (encode second) = .ok .halt

/-! ### The ALU -/

/-- For every value v and amount n: sra(v, n) is (v >>u n) or-ed with ~(0xFFFFFFFF >>u n) if v[31] is 1 and n > 0 and
with 0 otherwise; bit i of it is bit i + n of v where that is below 32 and the sign bit of v otherwise; and the four
values the rule gives hold. (R136.) -/
def Obligations.SraReplicatesTheSignBit : Prop :=
  (∀ (v : Word) (n : BitVec 5),
    sra v n = (v >>> n.toNat) ||| (if v.getLsbD 31 = true ∧ 0 < n.toNat then ~~~(0xFFFFFFFF#32 >>> n.toNat) else 0#32) ∧
    ∀ i : Nat, i < 32 → (sra v n).getLsbD i = if i + n.toNat < 32 then v.getLsbD (i + n.toNat) else v.getLsbD 31) ∧
    sra 0x80000000#32 4#5 = 0xF8000000#32 ∧ sra 0x80000000#32 0#5 = 0x80000000#32 ∧
    sra 0x7FFFFFFF#32 31#5 = 0#32 ∧ sra 0xFFFFFFFF#32 31#5 = 0xFFFFFFFF#32

/-- If exec i at s answers a next state t: with no record in the dispatch latch, or in a flush tick, the ALU output of t
is invalid; otherwise the ALU function has a result for the record and the output of t is its value and next PC
under the record's ROB index. (spec/45_integer.md R132 and R133.) -/
def Obligations.AluLatchHoldsTheDispatchedResult : Prop :=
  ∀ (i : Instr) (s t : State), exec i s = .next t →
    ((s.csu.flushReq = true ∨ s.rs.dispatch = none) → t.alu.out = none) ∧
    (∀ d, s.csu.flushReq = false → s.rs.dispatch = some d →
      ∃ r, aluResult d.cls d.a d.b d.imm d.shamt d.pc = some r ∧
        t.alu.out = some { rob := d.rob, value := r.value, nextPc := r.nextPc })

/-! ### Each instruction completes -/

/-- For every quiet state and all operands, exec of lui, auipc, addi, slti, sltiu, xori, ori, andi, slli, srli and srai
answers a next state, and five ticks later the architectural state is the one before with the result in rd (nothing
written for rd = x0), the pc advanced by 4, every other register and all of memory unchanged. The number of ticks is
the model's own count (log entry 21), which R213 gives too and calls non-normative. (spec/45_integer.md R137 to R147
(architectural clauses), spec/42_csu_rob.md R116, spec/70_reset_and_hazards.md R213 (non-normative tick counts),
notes/assumptions/21.md.) -/
def Obligations.ImmediateInstructionsComplete : Prop :=
  ∀ (s : State) (rd rs1 : RegIdx) (imm20 : BitVec 20) (imm : BitVec 12) (sh : BitVec 5), Quiet s →
      Completes (exec (.lui rd imm20) s) 5 (s.computed rd (immediateU imm20)) ∧
      Completes (exec (.auipc rd imm20) s) 5 (s.computed rd (s.csu.specPc + immediateU imm20)) ∧
      Completes (exec (.addi rd rs1 imm) s) 5 (s.computed rd (s.rf.read rs1 + immediate12 imm)) ∧
      Completes (exec (.slti rd rs1 imm) s) 5 (s.computed rd (if (s.rf.read rs1).toInt < (immediate12 imm).toInt then 1#32 else 0#32)) ∧
      Completes (exec (.sltiu rd rs1 imm) s) 5 (s.computed rd (if (s.rf.read rs1).toNat < (immediate12 imm).toNat then 1#32 else 0#32)) ∧
      Completes (exec (.xori rd rs1 imm) s) 5 (s.computed rd (s.rf.read rs1 ^^^ immediate12 imm)) ∧
      Completes (exec (.ori rd rs1 imm) s) 5 (s.computed rd (s.rf.read rs1 ||| immediate12 imm)) ∧
      Completes (exec (.andi rd rs1 imm) s) 5 (s.computed rd (s.rf.read rs1 &&& immediate12 imm)) ∧
      Completes (exec (.slli rd rs1 sh) s) 5 (s.computed rd (s.rf.read rs1 <<< sh.toNat)) ∧
      Completes (exec (.srli rd rs1 sh) s) 5 (s.computed rd (s.rf.read rs1 >>> sh.toNat)) ∧
      Completes (exec (.srai rd rs1 sh) s) 5 (s.computed rd (sra (s.rf.read rs1) sh))

/-- For every quiet state and all operands, exec of add, sub, sll, slt, sltu, xor, srl, sra, or and and answers a next
state, and five ticks later the architectural state is the one before with the result in rd (nothing written for rd
= x0), the pc advanced by 4, every other register and all of memory unchanged. The register shifts use the low five
bits of rs2. The number of ticks is the model's own count (log entry 21), which R213 gives too and calls non-
normative. (spec/45_integer.md R135, R148 to R157 (architectural clauses), spec/42_csu_rob.md R116,
spec/70_reset_and_hazards.md R213 (non-normative tick counts), notes/assumptions/21.md.) -/
def Obligations.RegisterInstructionsComplete : Prop :=
  ∀ (s : State) (rd rs1 rs2 : RegIdx), Quiet s →
      Completes (exec (.add rd rs1 rs2) s) 5 (s.computed rd (s.rf.read rs1 + s.rf.read rs2)) ∧
      Completes (exec (.sub rd rs1 rs2) s) 5 (s.computed rd (s.rf.read rs1 - s.rf.read rs2)) ∧
      Completes (exec (.sll rd rs1 rs2) s) 5 (s.computed rd (s.rf.read rs1 <<< ((s.rf.read rs2).toNat % 32))) ∧
      Completes (exec (.slt rd rs1 rs2) s) 5 (s.computed rd (if (s.rf.read rs1).toInt < (s.rf.read rs2).toInt then 1#32 else 0#32)) ∧
      Completes (exec (.sltu rd rs1 rs2) s) 5 (s.computed rd (if (s.rf.read rs1).toNat < (s.rf.read rs2).toNat then 1#32 else 0#32)) ∧
      Completes (exec (.xor rd rs1 rs2) s) 5 (s.computed rd (s.rf.read rs1 ^^^ s.rf.read rs2)) ∧
      Completes (exec (.srl rd rs1 rs2) s) 5 (s.computed rd (s.rf.read rs1 >>> ((s.rf.read rs2).toNat % 32))) ∧
      Completes (exec (.sra rd rs1 rs2) s) 5 (s.computed rd (sra (s.rf.read rs1) ((s.rf.read rs2).extractLsb' 0 5))) ∧
      Completes (exec (.or rd rs1 rs2) s) 5 (s.computed rd (s.rf.read rs1 ||| s.rf.read rs2)) ∧
      Completes (exec (.and rd rs1 rs2) s) 5 (s.computed rd (s.rf.read rs1 &&& s.rf.read rs2))

/-- For every quiet state and all operands, exec of jal and jalr answers a next state, and five ticks later the
architectural state is the one before with pc + 4 in rd and the pc at pc + imm_J, or at (x[rs1] + imm_I) with bit 0
cleared, rs1 read before rd is written; memory and every other register are unchanged. jal moves the fetch PC to its
target at once; jalr makes issue wait until, four ticks later, its result sets the fetch PC to the target, with
nothing issued in between; neither requests a flush. The number of ticks is the model's own count (log entry 21),
which R213 gives too and calls non-normative. (spec/46_control_transfer.md R162 and R163 (architectural clauses),
spec/42_csu_rob.md R112 and R116, spec/70_reset_and_hazards.md R213 (non-normative tick counts),
notes/assumptions/21.md.) -/
def Obligations.JumpsComplete : Prop :=
  ∀ (s : State) (rd rs1 : RegIdx) (off : BitVec 21) (imm : BitVec 12), Quiet s →
      Completes (exec (.jal rd off) s) 5 (s.wrote rd (s.csu.specPc + 4#32) (s.csu.specPc + immediateJ off)) ∧
      Completes (exec (.jalr rd rs1 imm) s) 5
        (s.wrote rd (s.csu.specPc + 4#32) ((s.rf.read rs1 + immediate12 imm) &&& 0xFFFFFFFE#32)) ∧
      (∃ t u, exec (.jal rd off) s = .next t ∧ t.csu.specPc = s.csu.specPc + immediateJ off ∧
        Host.Core.run Sys2Proof.core 5 t = .next u ∧ u.csu.flushReq = false) ∧
      (∃ t u v, exec (.jalr rd rs1 imm) s = .next t ∧ t.csu.jalrWait = true ∧
        Host.Core.run Sys2Proof.core 4 t = .next u ∧ u.csu.jalrWait = false ∧ u.csu.robCount = 1 ∧
        u.csu.specPc = (s.rf.read rs1 + immediate12 imm) &&& 0xFFFFFFFE#32 ∧
        Host.Core.run Sys2Proof.core 5 t = .next v ∧ v.csu.flushReq = false)

/-- For every quiet state and all operands, exec of beq, bne, blt, bge, bltu and bgeu answers a next state, and five
ticks later the architectural state is the one before with the pc at pc + imm_B if the condition holds of the two
registers and at pc + 4 if not; no register and no byte of memory changes. The number of ticks is the model's own
count (log entry 21), which R213 gives too and calls non-normative. (spec/46_control_transfer.md R164 to R170
(architectural clauses), spec/42_csu_rob.md R116, spec/70_reset_and_hazards.md R213 (non-normative tick counts),
notes/assumptions/21.md.) -/
def Obligations.BranchesComplete : Prop :=
  ∀ (s : State) (rs1 rs2 : RegIdx) (off : BitVec 13), Quiet s →
      Completes (exec (.beq rs1 rs2 off) s) 5 (s.branched (decide (s.rf.read rs1 = s.rf.read rs2)) off) ∧
      Completes (exec (.bne rs1 rs2 off) s) 5 (s.branched (decide (s.rf.read rs1 ≠ s.rf.read rs2)) off) ∧
      Completes (exec (.blt rs1 rs2 off) s) 5 (s.branched (decide ((s.rf.read rs1).toInt < (s.rf.read rs2).toInt)) off) ∧
      Completes (exec (.bge rs1 rs2 off) s) 5 (s.branched (decide ((s.rf.read rs1).toInt ≥ (s.rf.read rs2).toInt)) off) ∧
      Completes (exec (.bltu rs1 rs2 off) s) 5 (s.branched (decide ((s.rf.read rs1).toNat < (s.rf.read rs2).toNat)) off) ∧
      Completes (exec (.bgeu rs1 rs2 off) s) 5 (s.branched (decide ((s.rf.read rs1).toNat ≥ (s.rf.read rs2).toNat)) off)

/-- For every quiet state and all operands, five ticks after exec of each of the six branches the flush request is set
exactly if the resolved next PC differs from pc + imm_B, the address guessed with BRANCH_PREDICT = Taken; if it is
set, the next step answers a state with an empty ROB, no flush request and the speculated PC at the resolved next
PC. The number of ticks is the model's own count (log entry 21), which R213 gives too and calls non-normative.
(spec/42_csu_rob.md R99, R101, R107 and R115, spec/92_eei_decisions.md D9, spec/70_reset_and_hazards.md R213 (non-
normative tick counts), notes/assumptions/21.md.) -/
def Obligations.MispredictedBranchesFlush : Prop :=
  ∀ (s : State) (rs1 rs2 : RegIdx) (off : BitVec 13), Quiet s →
      FlushesTo (exec (.beq rs1 rs2 off) s) 5
        (decide (s.branchTarget (decide (s.rf.read rs1 = s.rf.read rs2)) off ≠ s.csu.specPc + immediateB off)) (s.branchTarget (decide (s.rf.read rs1 = s.rf.read rs2)) off) ∧
      FlushesTo (exec (.bne rs1 rs2 off) s) 5
        (decide (s.branchTarget (decide (s.rf.read rs1 ≠ s.rf.read rs2)) off ≠ s.csu.specPc + immediateB off)) (s.branchTarget (decide (s.rf.read rs1 ≠ s.rf.read rs2)) off) ∧
      FlushesTo (exec (.blt rs1 rs2 off) s) 5
        (decide (s.branchTarget (decide ((s.rf.read rs1).toInt < (s.rf.read rs2).toInt)) off ≠ s.csu.specPc + immediateB off)) (s.branchTarget (decide ((s.rf.read rs1).toInt < (s.rf.read rs2).toInt)) off) ∧
      FlushesTo (exec (.bge rs1 rs2 off) s) 5
        (decide (s.branchTarget (decide ((s.rf.read rs1).toInt ≥ (s.rf.read rs2).toInt)) off ≠ s.csu.specPc + immediateB off)) (s.branchTarget (decide ((s.rf.read rs1).toInt ≥ (s.rf.read rs2).toInt)) off) ∧
      FlushesTo (exec (.bltu rs1 rs2 off) s) 5
        (decide (s.branchTarget (decide ((s.rf.read rs1).toNat < (s.rf.read rs2).toNat)) off ≠ s.csu.specPc + immediateB off)) (s.branchTarget (decide ((s.rf.read rs1).toNat < (s.rf.read rs2).toNat)) off) ∧
      FlushesTo (exec (.bgeu rs1 rs2 off) s) 5
        (decide (s.branchTarget (decide ((s.rf.read rs1).toNat ≥ (s.rf.read rs2).toNat)) off ≠ s.csu.specPc + immediateB off)) (s.branchTarget (decide ((s.rf.read rs1).toNat ≥ (s.rf.read rs2).toNat)) off)

/-- For every quiet state and all operands, exec of lb, lh, lw, lbu and lhu answers a next state, and seven ticks later
the architectural state is the one before with rd holding the byte, two bytes or four bytes at x[rs1] + imm_I (any
alignment, addresses modulo 2^32, little-endian), sign-extended for lb and lh and zero-extended for lbu and lhu; the
pc is advanced by 4, and every other register and all of memory are unchanged. The number of ticks is the model's
own count (log entry 21), which R213 gives too and calls non-normative. (spec/47_load_store.md R171, R172, R174 to
R178 (architectural clauses), spec/20_memory.md R43 and R44, spec/42_csu_rob.md R116, spec/70_reset_and_hazards.md
R213 (non-normative tick counts), notes/assumptions/21.md.) -/
def Obligations.LoadsComplete : Prop :=
  ∀ (s : State) (rd rs1 : RegIdx) (imm : BitVec 12), Quiet s →
      Completes (exec (.lb rd rs1 imm) s) 7 (s.loaded .byte true rd rs1 imm) ∧
      Completes (exec (.lh rd rs1 imm) s) 7 (s.loaded .half true rd rs1 imm) ∧
      Completes (exec (.lw rd rs1 imm) s) 7 (s.loaded .word false rd rs1 imm) ∧
      Completes (exec (.lbu rd rs1 imm) s) 7 (s.loaded .byte false rd rs1 imm) ∧
      Completes (exec (.lhu rd rs1 imm) s) 7 (s.loaded .half false rd rs1 imm)

/-- For every quiet state whose memory is in canonical form and all operands, exec of sb, sh and sw answers a next
state, and seven ticks later no register has changed, the pc is advanced by 4, memory is the one before with the low
1, 2 or 4 bytes of x[rs2] stored at x[rs1] + imm_S, byte k of the value at that address plus k modulo 2^32, and
every byte outside those reads as before. The number of ticks is the model's own count (log entry 21), which R213
gives too and calls non-normative. (spec/47_load_store.md R171, R172, R179 to R181 (architectural clauses),
spec/20_memory.md R43, R44 and R52, spec/42_csu_rob.md R116, spec/70_reset_and_hazards.md R213 (non-normative tick
counts), notes/assumptions/21.md.) -/
def Obligations.StoresComplete : Prop :=
  ∀ (s : State) (rs1 rs2 : RegIdx) (imm : BitVec 12), Quiet s → s.mem.bytes.wf = true →
      Completes (exec (.sb rs1 rs2 imm) s) 7 (s.stored .byte rs1 rs2 imm) ∧
      Completes (exec (.sh rs1 rs2 imm) s) 7 (s.stored .half rs1 rs2 imm) ∧
      Completes (exec (.sw rs1 rs2 imm) s) 7 (s.stored .word rs1 rs2 imm) ∧
      ∀ w : Width,
        (∀ k < w.bytes, (s.stored w rs1 rs2 imm).mem.read8
            (effectiveAddr (s.rf.read rs1) (immediate12 imm) + BitVec.ofNat 32 k) = byteOfWord (s.rf.read rs2) k) ∧
        (∀ a : Addr, (∀ k < w.bytes, a ≠ effectiveAddr (s.rf.read rs1) (immediate12 imm) + BitVec.ofNat 32 k) →
          (s.stored w rs1 rs2 imm).mem.read8 a = s.mem.bytes.read8 a)

/-- For every quiet state, exec of halt answers a next state, and five ticks later the run is Halted with the low 8 bits
of x10, the halt signal is the marker bit 8 or-ed with those bits, six ticks have been counted, and no register, no
byte of memory and no part of the rest of the architectural state but the pc has changed. The number of ticks is the
model's own count (log entry 21), which R213 gives too and calls non-normative. (spec/48_halt_and_system.md R182,
spec/42_csu_rob.md R100, spec/40_clock_and_bus.md R87, spec/70_reset_and_hazards.md R213 (non-normative tick
counts), notes/assumptions/21.md.) -/
def Obligations.HaltCompletes : Prop :=
  ∀ s : State, Quiet s →
    Completes (exec .halt s) 5 { regs := s.rf.value, pc := s.csu.specPc + 4#32, mem := s.mem.bytes } ∧
      ∃ t u, exec .halt s = .next t ∧ Host.Core.run Sys2Proof.core 5 t = .next u ∧
        u.drv.status = .halted ((s.rf.read 10#5).setWidth 8) ∧
        u.csu.haltSignal = 0x100#32 ||| ((s.rf.read 10#5).setWidth 8).setWidth 32 ∧
        u.drv.cycle = s.drv.cycle + 6

/-! ### The Central Schedule Unit -/

/-- For every instruction i and state that meets the issue conditions (pipeline invariant, no flush, no jalr pending,
room in the ROB and in the unit of its class): exec i answers a next state whose issue latch holds the unit and
class; has_rd exactly if i has a destination other than x0, and that destination in rd; for each register i reads
the operand it resolves to, and None for each it does not; the sign-extended immediate of i and its shift amount
where it has one; but for the halt, bits 11:7 of its word in rd and bits 24:20 in shamt; the speculated PC, the
guessed next PC and the ROB tail. The tail entry is Issued with the word, class, PC, destination and, for a memory-
class instruction, the resolved PC pc + 4; the tail advances, the speculated PC moves to the guess unless i is a
jalr, and jalr_wait is set exactly for jalr. (spec/42_csu_rob.md R104, R106, R107, R108, R110, spec/30_encoding.md
R66, R69 and R71.) -/
def Obligations.IssueAllocatesAndBroadcasts : Prop :=
  ∀ (i : Instr) (s : State), CanIssue s i.cls.unit →
    ∃ t u, exec i s = .next t ∧ t.csu.issue = some u ∧
      (u.unit = i.cls.unit ∧ u.cls = i.cls ∧ u.pc = s.csu.specPc ∧
        u.specNext = guessedNext i s.csu.specPc ∧ u.rob = s.csu.robTail) ∧
      ((u.hasRd = true ↔ ∃ rd, (operandsOf i).rd = some rd ∧ rd ≠ 0#5) ∧
        (∀ rd, (operandsOf i).rd = some rd → u.rd = rd) ∧
        ((operandsOf i).rs1 = none → u.op1 = .none) ∧
        (∀ r, (operandsOf i).rs1 = some r → u.op1 = resolveReg s r) ∧
        ((operandsOf i).rs2 = none → u.op2 = .none) ∧
        (∀ r, (operandsOf i).rs2 = some r → u.op2 = resolveReg s r) ∧
        (∀ v, (operandsOf i).imm = some v → u.imm = v) ∧
        (∀ n, (operandsOf i).shamt = some n → u.shamt = n) ∧
        (i ≠ .halt → u.rd = (encode i).extractLsb' 7 5 ∧ u.shamt = (encode i).extractLsb' 20 5)) ∧
      t.csu.rob[s.csu.robTail] =
        { state := .issued
          word := encode i
          cls := i.cls
          pc := s.csu.specPc
          hasRd := u.hasRd
          rd := u.rd
          value := 0#32
          specNext := guessedNext i s.csu.specPc
          pcReady := decide (i.cls.unit = .lsq)
          resolvedPc := if i.cls.unit = .lsq then s.csu.specPc + 4#32 else 0#32
          mismatch := false } ∧
      t.csu.robTail = s.csu.robTail + 1 ∧
      t.csu.jalrWait = decide (i.cls = .jalr) ∧
      t.csu.specPc = if i.cls = .jalr then s.csu.specPc else guessedNext i s.csu.specPc

/-- With free the number of Empty RS slots, or LSQ_SIZE less the LSQ count, minus 1 if the issue latch holds a record
for the same unit: if exec i answers a next state from a state with no flush pending, then an instruction is issued
only if the ROB count is below ROB_SIZE and free is at least 1 (and an attempt is made); if one of these fails,
nothing is issued, the ROB tail is unchanged, and without a jalr pending so is the speculated PC; and the shortage
itself is no error: with the pipeline invariant and no refusal the tick answers a next state. An entry freed in this
tick does not count: all numbers are those at its start. (R106.) -/
def Obligations.IssueStallsWithoutCapacity : Prop :=
  ∀ (i : Instr) (s : State), s.csu.flushReq = false →
    (∀ t, exec i s = .next t →
      (t.csu.issue ≠ none ↔
        (s.csu.attempts = true ∧ s.csu.robCount < robSize ∧
          1 + (match s.csu.issue with
            | some u => if u.unit = i.cls.unit then 1 else 0
            | none => 0) ≤
          (match i.cls.unit with
            | .rs => (List.finRange rsSize).countP fun j => decide ((s.rs.slot[j]).state = .empty)
            | .lsq => lsqSize - s.lsq.count))) ∧
      (t.csu.issue = none → t.csu.robTail = s.csu.robTail ∧
        (PipelineInv s → s.csu.jalrWait = false → t.csu.specPc = s.csu.specPc))) ∧
    (PipelineInv s → refusedFetch (.known (issueReqOf i)) s = none → ∃ t, exec i s = .next t)

/-- If exec i answers a next state from a state with a flush request, with a mismatched head entry committing, or with
jalr_wait set, then the issue latch of the next state is invalid; and jalr_wait stays set until the jalr's result is
on the ALU latch, when it is cleared and the speculated PC takes the result's next PC. (spec/42_csu_rob.md R99, R103
and R112.) -/
def Obligations.NoIssueWhileFlushingOrWaitingForJalr : Prop :=
  ∀ (i : Instr) (s t : State), exec i s = .next t →
    (s.csu.flushReq = true ∨ s.csu.flushNow = true ∨ s.csu.jalrWait = true → t.csu.issue = none) ∧
    (s.csu.flushReq = false → s.csu.jalrWait = true →
      ((∀ o, s.alu.out = some o → (s.csu.rob[o.rob]).cls ≠ .jalr) →
        t.csu.jalrWait = true ∧ t.csu.specPc = s.csu.specPc) ∧
      (∀ o, s.alu.out = some o → (s.csu.rob[o.rob]).cls = .jalr →
        t.csu.jalrWait = false ∧ t.csu.specPc = o.nextPc))

/-- For every state and register r: x0 resolves to the value 0; else a destination of the issue latch to its tag; else,
if the RF marks r not ready with producer q, the commit latch's value if it is of q and of r, else the value of
entry q if it is ReadyToCommit, else the value the ALU, else Memory, broadcasts for q in this tick, else the tag q;
else the RF's value. (spec/42_csu_rob.md R109 (cases 1 to 4, in order), spec/92_eei_decisions.md D13.) -/
def Obligations.OperandsAreResolvedAtIssue : Prop :=
  ∀ (s : State) (r : RegIdx),
    resolveReg s 0#5 = .val 0#32 ∧
    (r ≠ 0#5 →
      (∀ u, s.csu.issue = some u → u.hasRd = true → u.rd = r → resolveReg s r = .tag u.rob) ∧
      ((∀ u, s.csu.issue = some u → ¬ (u.hasRd = true ∧ u.rd = r)) →
        (s.rf.isBusy r = false → resolveReg s r = .val (s.rf.read r)) ∧
        (s.rf.isBusy r = true →
          (∀ k, s.csu.commit = some k → k.rob = s.rf.producerOf r → k.hasRd = true → k.rd = r →
            resolveReg s r = .val k.value) ∧
          ((∀ k, s.csu.commit = some k → ¬ (k.rob = s.rf.producerOf r ∧ k.hasRd = true ∧ k.rd = r)) →
            ((s.csu.rob[s.rf.producerOf r]).state = .readyToCommit →
              resolveReg s r = .val (s.csu.rob[s.rf.producerOf r]).value) ∧
            ((s.csu.rob[s.rf.producerOf r]).state ≠ .readyToCommit →
              (∀ o, s.alu.out = some o → o.rob = s.rf.producerOf r → resolveReg s r = .val o.value) ∧
              ((∀ o, s.alu.out = some o → o.rob ≠ s.rf.producerOf r) →
                (∀ o, s.mem.out = some o → o.rob = s.rf.producerOf r → resolveReg s r = .val o.value) ∧
                ((∀ o, s.mem.out = some o → o.rob ≠ s.rf.producerOf r) →
                  resolveReg s r = .tag (s.rf.producerOf r))))))))

/-- If exec i answers a next state t from a state with no flush pending: if the ROB is not empty and its head is
ReadyToCommit, t's commit latch holds the head's index, has_rd, rd and value, the actual PC is the head's resolved
PC, its entry is Empty with every other field but the class 0, the head index advances by one, and a flush is
requested exactly if the head has the mismatch flag; otherwise the commit latch is invalid, the actual PC and head
index are unchanged, and no flush is requested. Every other ReadyToCommit entry waits unchanged. (spec/42_csu_rob.md
R98 (the Empty entry), R99 and R113, spec/92_eei_decisions.md D14.) -/
def Obligations.OnlyTheHeadCommits : Prop :=
  ∀ (i : Instr) (s t : State), exec i s = .next t → s.csu.flushReq = false →
    ((0 < s.csu.robCount ∧ (s.csu.rob[s.csu.robHead]).state = .readyToCommit) →
      t.csu.commit = some
        { rob := s.csu.robHead
          hasRd := (s.csu.rob[s.csu.robHead]).hasRd
          rd := (s.csu.rob[s.csu.robHead]).rd
          value := (s.csu.rob[s.csu.robHead]).value } ∧
      t.csu.archPc = (s.csu.rob[s.csu.robHead]).resolvedPc ∧
      (t.csu.rob[s.csu.robHead]).isCleared ∧
      t.csu.robHead = s.csu.robHead + 1 ∧
      t.csu.flushReq = (s.csu.rob[s.csu.robHead]).mismatch) ∧
    (¬ (0 < s.csu.robCount ∧ (s.csu.rob[s.csu.robHead]).state = .readyToCommit) →
      t.csu.commit = none ∧ t.csu.archPc = s.csu.archPc ∧ t.csu.robHead = s.csu.robHead ∧
      t.csu.flushReq = false) ∧
    (∀ j : RobIdx, j ≠ s.csu.robHead → (s.csu.rob[j]).state = .readyToCommit → t.csu.rob[j] = s.csu.rob[j])

/-- If exec i answers a next state t: if the committing head is the halt sentinel, the halt signal of t is the marker
bit 8 or-ed with the low 8 bits of a0, taken from the commit latch if that holds a write of x10 and from the RF
otherwise, and t is Halted with those 8 bits; in every other tick the halt signal is unchanged. (spec/42_csu_rob.md
R100, spec/10_state.md R21, spec/40_clock_and_bus.md R87, spec/92_eei_decisions.md D11 and D12.) -/
def Obligations.HaltLatchesTheLowByteOfA0 : Prop :=
  ∀ (i : Instr) (s t : State), exec i s = .next t →
    ((s.csu.flushReq = false ∧ s.csu.commits = true ∧ s.csu.headEntry.cls = .halt) →
      ∃ a0 : Word,
        ((∃ k, s.csu.commit = some k ∧ k.hasRd = true ∧ k.rd = 10#5 ∧ a0 = k.value) ∨
          ((∀ k, s.csu.commit = some k → ¬ (k.hasRd = true ∧ k.rd = 10#5)) ∧ a0 = s.rf.read 10#5)) ∧
        t.csu.haltSignal = 0x100#32 ||| (a0.setWidth 8).setWidth 32 ∧
        t.drv.status = .halted (a0.setWidth 8)) ∧
    (¬ (s.csu.flushReq = false ∧ s.csu.commits = true ∧ s.csu.headEntry.cls = .halt) →
      t.csu.haltSignal = s.csu.haltSignal)

/-- If exec i answers a next state t from a state with no flush pending: the entry the ALU's result names was Executing
and in t is ReadyToCommit with that value, pc_ready, the result's next PC, and the mismatch flag set exactly if it
is no jalr and that PC is not the guessed one; the entry Memory's result names was Executing and in t is
ReadyToCommit with that value and nothing else changed; and every Issued entry is Executing in t with nothing else
changed. (spec/42_csu_rob.md R101 and R102, spec/92_eei_decisions.md D31.) -/
def Obligations.BroadcastsCompleteTheirEntry : Prop :=
  ∀ (i : Instr) (s t : State), exec i s = .next t → s.csu.flushReq = false →
    (∀ o, s.alu.out = some o →
      (s.csu.rob[o.rob]).state = .executing ∧
      t.csu.rob[o.rob] =
        { s.csu.rob[o.rob] with
          state := .readyToCommit
          value := o.value
          pcReady := true
          resolvedPc := o.nextPc
          mismatch := decide ((s.csu.rob[o.rob]).cls ≠ .jalr ∧ o.nextPc ≠ (s.csu.rob[o.rob]).specNext) }) ∧
    (∀ o, s.mem.out = some o →
      (s.csu.rob[o.rob]).state = .executing ∧
      t.csu.rob[o.rob] = { s.csu.rob[o.rob] with state := .readyToCommit, value := o.value }) ∧
    (∀ j : RobIdx, (s.csu.rob[j]).state = .issued →
      t.csu.rob[j] = { s.csu.rob[j] with state := .executing })

/-- For every state s and every step to a state t, the state of each ROB entry is unchanged or has moved from Empty to
Issued, from Issued to Executing, from Executing to ReadyToCommit, or from ReadyToCommit to Empty as the committing
head; or s was in its flush tick and the entry is Empty. The first move is made by the entry issued in this tick,
the second by every Issued entry, the third by an entry with a broadcast. (R25.) -/
def Obligations.RobEntriesLiveInOrder : Prop :=
  ∀ s t : State, step s = .next t → ∀ j : RobIdx,
    (s.csu.flushReq = true ∧ (t.csu.rob[j]).state = .empty) ∨
    (s.csu.flushReq = false ∧
      (((t.csu.rob[j]).state = (s.csu.rob[j]).state ∧ (s.csu.rob[j]).state ≠ .issued) ∨
        ((s.csu.rob[j]).state = .empty ∧ (t.csu.rob[j]).state = .issued ∧ ∃ u, t.csu.issue = some u ∧ u.rob = j) ∨
        ((s.csu.rob[j]).state = .issued ∧ (t.csu.rob[j]).state = .executing) ∨
        ((s.csu.rob[j]).state = .executing ∧ (t.csu.rob[j]).state = .readyToCommit ∧
          ((∃ o, s.alu.out = some o ∧ o.rob = j) ∨ ∃ o, s.mem.out = some o ∧ o.rob = j)) ∨
        ((s.csu.rob[j]).state = .readyToCommit ∧ (t.csu.rob[j]).state = .empty ∧
          ∃ k, t.csu.commit = some k ∧ k.rob = j)))

/-! ### The Register File -/

/-- If exec i answers a next state t, then for every register r other than x0: its value in t is the commit latch's if
that writes r, whether or not the entry is still the producer, and is unchanged otherwise; in a flush tick no
register is marked not-ready in t and no producer changes; in any other tick, if the issue latch has destination r,
then r is marked not-ready with the latch's ROB index as producer, also when a commit writes r in the same tick; and
if it has not, the producer is unchanged and the mark is cleared exactly if the commit latch writes r and its entry
is the recorded producer. Register 0 reads as 0 and is not marked. (R90, R92.) -/
def Obligations.RegisterFileTick : Prop :=
  ∀ (i : Instr) (s t : State), exec i s = .next t →
    (t.rf.read 0#5 = 0#32 ∧ t.rf.isBusy 0#5 = false) ∧
    ∀ r : RegIdx, r ≠ 0#5 →
      (∀ k, s.csu.commit = some k → k.hasRd = true → k.rd = r → t.rf.read r = k.value) ∧
      ((∀ k, s.csu.commit = some k → ¬ (k.hasRd = true ∧ k.rd = r)) → t.rf.read r = s.rf.read r) ∧
      (s.csu.flushReq = true → t.rf.isBusy r = false ∧ t.rf.producerOf r = s.rf.producerOf r) ∧
      (s.csu.flushReq = false →
        (∀ u, s.csu.issue = some u → u.hasRd = true → u.rd = r →
          t.rf.isBusy r = true ∧ t.rf.producerOf r = u.rob) ∧
        ((∀ u, s.csu.issue = some u → ¬ (u.hasRd = true ∧ u.rd = r)) →
          t.rf.producerOf r = s.rf.producerOf r ∧
          (t.rf.isBusy r = true ↔
            s.rf.isBusy r = true ∧
              ∀ k, s.csu.commit = some k → ¬ (k.hasRd = true ∧ k.rd = r ∧ s.rf.producerOf r = k.rob))))

/-! ### The Reservation Station -/

/-- If exec i answers a next state t from a state with no flush pending: if slot j is Ready and no slot below it is, t's
dispatch latch holds its class, the values of its operands (0 for one not used), immediate, shift amount, PC and ROB
index, and slot j is Empty in t; if no slot is Ready the latch is invalid; and a Ready slot that is not the lowest
is unchanged. (spec/43_reservation_station.md R119, spec/92_eei_decisions.md D36.) -/
def Obligations.RsDispatchesTheLowestReadySlot : Prop :=
  ∀ (i : Instr) (s t : State), exec i s = .next t → s.csu.flushReq = false →
    (∀ j : RsIdx, (s.rs.slot[j]).state = .ready → (∀ k : RsIdx, k < j → (s.rs.slot[k]).state ≠ .ready) →
      (t.rs.slot[j]).state = .empty ∧
      ∃ a b : Word,
        ((s.rs.slot[j]).op1 = .val a ∨ ((s.rs.slot[j]).op1 = .none ∧ a = 0#32)) ∧
        ((s.rs.slot[j]).op2 = .val b ∨ ((s.rs.slot[j]).op2 = .none ∧ b = 0#32)) ∧
        t.rs.dispatch = some
          { cls := (s.rs.slot[j]).cls
            a := a
            b := b
            imm := (s.rs.slot[j]).imm
            shamt := (s.rs.slot[j]).shamt
            pc := (s.rs.slot[j]).pc
            rob := (s.rs.slot[j]).rob }) ∧
    ((∀ j : RsIdx, (s.rs.slot[j]).state ≠ .ready) → t.rs.dispatch = none) ∧
    (∀ j k : RsIdx, k < j → (s.rs.slot[k]).state = .ready → (s.rs.slot[j]).state = .ready →
      t.rs.slot[j] = s.rs.slot[j])

/-- If exec i answers a next state t from a state with no flush pending, then for every RS slot that is AwaitingOperands
each operand of it in t is: the ALU's value if it was the tag of the ROB index the ALU broadcasts, else Memory's if
it was the tag of the index Memory broadcasts, else unchanged; its state in t is Ready if neither operand is a tag
and AwaitingOperands otherwise, and its other fields are unchanged. Both operands can be filled in one tick. (R120.) -/
def Obligations.SnoopFillsWaitingOperands : Prop :=
  ∀ (i : Instr) (s t : State), exec i s = .next t → s.csu.flushReq = false →
    ∀ j : RsIdx, (s.rs.slot[j]).state = .awaitingOperands →
      (∀ (before after : Operand),
        (before = (s.rs.slot[j]).op1 ∧ after = (t.rs.slot[j]).op1) ∨
          (before = (s.rs.slot[j]).op2 ∧ after = (t.rs.slot[j]).op2) →
        (∀ o, s.alu.out = some o → before = .tag o.rob → after = .val o.value) ∧
        ((∀ o, s.alu.out = some o → before ≠ .tag o.rob) →
          (∀ o, s.mem.out = some o → before = .tag o.rob → after = .val o.value) ∧
          ((∀ o, s.mem.out = some o → before ≠ .tag o.rob) → after = before))) ∧
      ((t.rs.slot[j]).state = .ready ↔ (∀ q, (t.rs.slot[j]).op1 ≠ .tag q) ∧ ∀ q, (t.rs.slot[j]).op2 ≠ .tag q) ∧
      ((t.rs.slot[j]).state = .awaitingOperands ↔
        (∃ q, (t.rs.slot[j]).op1 = .tag q) ∨ ∃ q, (t.rs.slot[j]).op2 = .tag q) ∧
      (t.rs.slot[j]).cls = (s.rs.slot[j]).cls ∧ (t.rs.slot[j]).imm = (s.rs.slot[j]).imm ∧
      (t.rs.slot[j]).shamt = (s.rs.slot[j]).shamt ∧ (t.rs.slot[j]).pc = (s.rs.slot[j]).pc ∧
      (t.rs.slot[j]).rob = (s.rs.slot[j]).rob

/-- If exec i answers a next state t from a state with no flush pending: a record in the issue latch for the RS is, in
t, in the lowest Empty slot of s, with its operands after this tick's snoop, its state by those operands and its
other fields; and an Empty slot is unchanged if it is not that one or there is no such record.
(spec/43_reservation_station.md R121, spec/92_eei_decisions.md D21.) -/
def Obligations.RsAcceptsIntoTheLowestEmptySlot : Prop :=
  ∀ (i : Instr) (s t : State), exec i s = .next t → s.csu.flushReq = false →
    (∀ u, s.csu.issue = some u → u.unit = .rs →
      ∃ j : RsIdx, (s.rs.slot[j]).state = .empty ∧ (∀ k : RsIdx, k < j → (s.rs.slot[k]).state ≠ .empty) ∧
        t.rs.slot[j] =
          { state := slotStateOf (s.snoop u.op1) (s.snoop u.op2)
            cls := u.cls
            op1 := s.snoop u.op1
            op2 := s.snoop u.op2
            imm := u.imm
            shamt := u.shamt
            pc := u.pc
            rob := u.rob }) ∧
    (∀ j : RsIdx, (s.rs.slot[j]).state = .empty →
      ((∃ k : RsIdx, k < j ∧ (s.rs.slot[k]).state = .empty) ∨ ∀ u, s.csu.issue = some u → u.unit ≠ .rs) →
      t.rs.slot[j] = s.rs.slot[j])

/-! ### The Load/Store Queue -/

/-- If exec i answers a next state t from a state with no flush pending whose LSQ head is of a memory class: if the
count is positive, the head is Ready, Memory is Free and the request latch is invalid, then in t the request latch
holds a valid request of the head's width and direction, signed exactly for lb and lh, at the address operand 1 plus
immediate, with operand 2 truncated to the width for a store and 0 for a load, the entry is Empty and the head index
advances; otherwise the request latch is invalid in t and the head index is unchanged. (spec/44_load_store_queue.md
R126 and R127, spec/20_memory.md R44 and R48.) -/
def Obligations.LsqSendsItsReadyHead : Prop :=
  ∀ (i : Instr) (s t : State), exec i s = .next t → s.csu.flushReq = false →
    ((0 < s.lsq.count ∧ (s.lsq.entry[s.lsq.head]).state = .ready ∧ s.mem.state = .free ∧ s.lsq.req = none) →
      (t.lsq.entry[s.lsq.head]).state = .empty ∧ t.lsq.head = s.lsq.head + 1 ∧
      (∀ w, accessWidth (s.lsq.entry[s.lsq.head]).cls = some w →
        ∃ r, t.lsq.req = some r ∧ requestValid r.type = true ∧ requestWidth r.type = some w ∧
          requestDirection r.type = (if isStore (s.lsq.entry[s.lsq.head]).cls then .write else .read) ∧
          r.signed = decide ((s.lsq.entry[s.lsq.head]).cls = .lb ∨ (s.lsq.entry[s.lsq.head]).cls = .lh) ∧
          r.addr = (s.lsq.entry[s.lsq.head]).op1.value + (s.lsq.entry[s.lsq.head]).imm ∧
          r.data.toNat =
            (if isStore (s.lsq.entry[s.lsq.head]).cls then
              (s.lsq.entry[s.lsq.head]).op2.value.toNat % 2 ^ (8 * w.bytes) else 0) ∧
          r.rob = (s.lsq.entry[s.lsq.head]).rob)) ∧
    (¬ (0 < s.lsq.count ∧ (s.lsq.entry[s.lsq.head]).state = .ready ∧ s.mem.state = .free ∧ s.lsq.req = none) →
      t.lsq.req = none ∧ t.lsq.head = s.lsq.head)

/-- If exec i answers a next state t from a state with no flush pending: a record in the issue latch for the LSQ finds
the LSQ not full, and is in t the entry at the tail of s with its operands after this tick's snoop and its state by
those operands, the tail advancing; with no such record the tail is unchanged; and every AwaitingOperands entry has,
in t, both operands snooped and its state recomputed, the rest of it unchanged. Given a full LSQ and a record for
it, out of a flush tick exec answers no next state. (spec/44_load_store_queue.md R125 and R128.) -/
def Obligations.LsqAppendsAtItsTail : Prop :=
  ∀ (i : Instr) (s : State), s.csu.flushReq = false →
    (∀ t, exec i s = .next t →
      (∀ u, s.csu.issue = some u → u.unit = .lsq →
        s.lsq.count ≠ lsqSize ∧ t.lsq.tail = s.lsq.tail + 1 ∧
        t.lsq.entry[s.lsq.tail] =
          { state := slotStateOf (s.snoop u.op1) (s.snoop u.op2)
            cls := u.cls
            op1 := s.snoop u.op1
            op2 := s.snoop u.op2
            imm := u.imm
            rob := u.rob }) ∧
      ((∀ u, s.csu.issue = some u → u.unit ≠ .lsq) → t.lsq.tail = s.lsq.tail) ∧
      (∀ j : LsqIdx, (s.lsq.entry[j]).state = .awaitingOperands →
        t.lsq.entry[j] =
          { s.lsq.entry[j] with
            state := slotStateOf (s.snoop (s.lsq.entry[j]).op1) (s.snoop (s.lsq.entry[j]).op2)
            op1 := s.snoop (s.lsq.entry[j]).op1
            op2 := s.snoop (s.lsq.entry[j]).op2 })) ∧
    (∀ u, s.csu.issue = some u → u.unit = .lsq → s.lsq.count = lsqSize → ∀ t, exec i s ≠ .next t)

/-! ### Memory -/

/-- If exec i answers a next state t from a state with no flush pending: when Free with a request, the request is valid
and becomes the pending one in Busy_1; when Free without one it stays Free; in Busy_1 it goes to Busy_2 with the
same pending request; in Busy_2 the pending request is performed and Memory is Free: a read publishes the bytes at
its address, sign- or zero-extended, and changes no byte; a write publishes 0, records the timestamp, address, width
and old bytes in the playback record of its ROB index, advances the timestamp and stores its bytes. While Busy there
is no request on the latch; out of Busy_2 nothing is published and no byte and no timestamp changes.
(spec/20_memory.md R48, R50, R51 and R52, spec/92_eei_decisions.md D18.) -/
def Obligations.MemoryBusyProtocol : Prop :=
  ∀ (i : Instr) (s t : State), exec i s = .next t → s.csu.flushReq = false →
    (s.mem.state = .free → s.lsq.req = none → t.mem.state = .free) ∧
    (∀ r, s.mem.state = .free → s.lsq.req = some r →
      requestValid r.type = true ∧ t.mem.state = .busy1 ∧ t.mem.pending = some r) ∧
    (s.mem.state = .busy1 → s.lsq.req = none ∧ t.mem.state = .busy2 ∧ t.mem.pending = s.mem.pending) ∧
    (s.mem.state ≠ .busy2 →
      t.mem.out = none ∧ t.mem.bytes = s.mem.bytes ∧ t.mem.wcount = s.mem.wcount) ∧
    (s.mem.state = .busy2 →
      ∃ p w, s.mem.pending = some p ∧ requestWidth p.type = some w ∧ s.lsq.req = none ∧
        t.mem.state = .free ∧ t.mem.pending = none ∧
        ((requestDirection p.type = .read ∧
            t.mem.out = some { rob := p.rob, value := s.mem.bytes.load w p.signed p.addr } ∧
            t.mem.bytes = s.mem.bytes ∧ t.mem.wcount = s.mem.wcount) ∨
          (requestDirection p.type = .write ∧
            t.mem.out = some { rob := p.rob, value := 0#32 } ∧
            t.mem.playback[p.rob] = some
              { ts := s.mem.wcount, addr := p.addr, len := w, old := s.mem.bytes.readBytes p.addr w.bytes } ∧
            t.mem.wcount = s.mem.wcount + 1 ∧
            t.mem.bytes = s.mem.bytes.store w p.addr p.data)))

/-- For every state whose memory is in canonical form, if exec i answers a next state t with no flush pending: every
byte reads in t as before but those of the write that Memory performs in this tick, at its address, address + 1, ...
modulo 2^32, which read as the bytes of its data, the lowest first; with no write performed no byte changes.
(spec/20_memory.md R38, R43, R46 and R52.) -/
def Obligations.MemoryChangesOnlyTheStoredBytes : Prop :=
  ∀ (i : Instr) (s t : State), s.mem.bytes.wf = true → exec i s = .next t → s.csu.flushReq = false →
    (∀ a : Addr, (∀ p w, memWriting s = some (p, w) → ∀ k < w.bytes, a ≠ p.addr + BitVec.ofNat 32 k) →
      t.mem.bytes.read8 a = s.mem.bytes.read8 a) ∧
    (∀ p w, memWriting s = some (p, w) → ∀ k < w.bytes,
      t.mem.bytes.read8 (p.addr + BitVec.ofNat 32 k) = byteOfWord p.data k)

/-- For every memory in canonical form, address and value: after a word is stored at the address, a word load there
gives the value, and a zero-extended byte or halfword load at offset k gives the value shifted right by 8k and cut
to the width, a signed one its sign extension; at the top of the address space the bytes go on at address 0. The
rule's own example holds. (spec/20_memory.md R39, R43 and R44, spec/92_eei_decisions.md D1.) -/
def Obligations.ByteOrderIsLittleEndian : Prop :=
  (∀ (m : Memory) (a : Addr) (v : Word), m.wf = true →
    (m.store .word a v).load .word false a = v ∧
    (∀ k : Nat, k < 4 →
      (m.store .word a v).load .byte false (a + BitVec.ofNat 32 k) = (v.extractLsb' (8 * k) 8).setWidth 32 ∧
      (m.store .word a v).load .byte true (a + BitVec.ofNat 32 k) = (v.extractLsb' (8 * k) 8).signExtend 32) ∧
    (∀ k : Nat, k < 3 →
      (m.store .word a v).load .half false (a + BitVec.ofNat 32 k) = (v.extractLsb' (8 * k) 16).setWidth 32 ∧
      (m.store .word a v).load .half true (a + BitVec.ofNat 32 k) = (v.extractLsb' (8 * k) 16).signExtend 32)) ∧
    (∀ (m : Memory) (v : Word), m.wf = true →
      (m.store .half 0xFFFFFFFF#32 v).read8 0xFFFFFFFF#32 = v.extractLsb' 0 8 ∧
      (m.store .half 0xFFFFFFFF#32 v).read8 0x00000000#32 = v.extractLsb' 8 8) ∧
    (∀ (m : Memory) (a : Addr), m.wf = true →
      (m.store .word a 0x11223344#32).read8 a = 0x44#8 ∧
      (m.store .word a 0x11223344#32).read16 (a + 1#32) = 0x2233#16 ∧
      (m.store .word a 0x11223344#32).read8 (a + 3#32) = 0x11#8)

/-- If exec i answers a next state t from a state with no flush pending: the playback record of the ROB slot that the
commit latch names is none in t, so its write is permanent (no byte of memory changes by it); every other slot's
record is unchanged unless a write is performed for that slot in this tick; and if the slot had no record, nothing
changes. (R55.) -/
def Obligations.CommitDiscardsThePlaybackRecord : Prop :=
  ∀ (i : Instr) (s t : State), exec i s = .next t → s.csu.flushReq = false →
    (∀ k, s.csu.commit = some k → t.mem.playback[k.rob] = none) ∧
    (∀ j : RobIdx, (∀ k, s.csu.commit = some k → k.rob ≠ j) → (∀ p w, memWriting s = some (p, w) → p.rob ≠ j) →
      t.mem.playback[j] = s.mem.playback[j]) ∧
    (memWriting s = none → t.mem.bytes = s.mem.bytes)

/-! ### The flush -/

/-- For every state with the pipeline invariant and a flush request, exec i answers a next state t, whatever i is, in
which every ROB entry is Empty with every other field but the class 0, every RS slot and LSQ entry is Empty, all
pointers and counts are 0, every latch is invalid, Memory is Free with nothing pending and no playback record, no
register is marked not-ready, the speculated PC is the actual PC, flush_req and jalr_wait are clear, and the actual
PC, the halt signal and the timestamp counter are unchanged. (spec/40_clock_and_bus.md R85, spec/41_register_file.md
R94, spec/42_csu_rob.md R98, spec/43_reservation_station.md R122, spec/44_load_store_queue.md R129,
spec/45_integer.md R132, spec/20_memory.md R56.) -/
def Obligations.FlushTickEmptiesEveryUnit : Prop :=
  ∀ (i : Instr) (s : State), PipelineInv s → s.csu.flushReq = true →
    ∃ t, exec i s = .next t ∧
      ((∀ j : RobIdx, (t.csu.rob[j]).isCleared) ∧ t.csu.robHead = 0 ∧ t.csu.robTail = 0 ∧ t.csu.robCount = 0 ∧
        t.csu.specPc = s.csu.archPc ∧ t.csu.archPc = s.csu.archPc ∧ t.csu.haltSignal = s.csu.haltSignal ∧
        t.csu.flushReq = false ∧ t.csu.jalrWait = false ∧ t.csu.issue = none ∧ t.csu.commit = none) ∧
      ((∀ j : RsIdx, (t.rs.slot[j]).state = .empty) ∧ t.rs.dispatch = none) ∧
      ((∀ j : LsqIdx, (t.lsq.entry[j]).state = .empty) ∧ t.lsq.head = 0 ∧ t.lsq.tail = 0 ∧ t.lsq.count = 0 ∧
        t.lsq.req = none) ∧
      t.alu.out = none ∧
      (t.mem.state = .free ∧ t.mem.pending = none ∧ t.mem.out = none ∧ (∀ j : RobIdx, t.mem.playback[j] = none) ∧
        t.mem.wcount = s.mem.wcount) ∧
      (∀ r : RegIdx, t.rf.isBusy r = false)

/-- For every state with the playback invariant and a flush request, if exec i answers a next state t: a byte that no
playback record covers, but for the record of the slot in the commit latch, is unchanged; and a byte that such
records cover reads in t as the old byte that the one with the smallest timestamp among them holds for it.
(spec/20_memory.md R56 (net effect per byte).) -/
def Obligations.FlushRestoresEveryOverwrittenByte : Prop :=
  ∀ (i : Instr) (s t : State), PlaybackInv s → exec i s = .next t → s.csu.flushReq = true → ∀ a : Addr,
    ((∀ (j : RobIdx) (r : Playback), s.mem.playback[j] = some r → commitsSlot s j = false →
        ∀ k < r.len.bytes, a ≠ r.addr + BitVec.ofNat 32 k) →
      t.mem.bytes.read8 a = s.mem.bytes.read8 a) ∧
    (∀ (j : RobIdx) (r : Playback) (k : Nat), s.mem.playback[j] = some r → commitsSlot s j = false →
      k < r.len.bytes → a = r.addr + BitVec.ofNat 32 k →
      (∀ (j' : RobIdx) (r' : Playback) (k' : Nat), s.mem.playback[j'] = some r' → commitsSlot s j' = false →
        k' < r'.len.bytes → a = r'.addr + BitVec.ofNat 32 k' → r.ts ≤ r'.ts) →
      r.old[k]? = some (t.mem.bytes.read8 a))

/-- For every state with the pipeline and playback invariants, if step answers a next state whose commit latch is
invalid, then the architectural state (registers with the pending commit write, the actual PC, memory with every
uncommitted store undone) is the same before and after: whatever was issued, executed, loaded or stored
speculatively, and whatever a flush discarded, has no architectural effect. (spec/60_exceptions.md R189,
spec/20_memory.md R54 to R57, spec/42_csu_rob.md R115.) -/
def Obligations.TicksWithoutCommitAreInvisible : Prop :=
  ∀ s t : State, PipelineInv s → PlaybackInv s → step s = .next t → t.csu.commit = none → archView t = archView s

/-! ### Invariants -/

/-- In the reset state, and in the state before tick 0 of a run with any program image loaded, the pipeline invariant,
the playback invariant (with memory in canonical form), the register 0 invariant and the producer table invariant
hold, and the machine is quiet. (spec/10_state.md R37, spec/70_reset_and_hazards.md R200 and R201.) -/
def Obligations.InvariantsHoldAfterReset : Prop :=
  ∀ s : State, (s = State.reset ∨ ∃ image : List ImageRecord, s = bootWith Config.core image) →
    PipelineInv s ∧ PlaybackInv s ∧ ZeroRegInv s ∧ issueLatchAgrees s ∧ ProducerTableOk s ∧ Quiet s

/-- For every state with the pipeline invariant, if step answers a next state, that state has it: the ROB and LSQ
pointer invariants, each Executing entry held by exactly one place of its unit, record classes and states, room for
the record in the issue latch, Memory Free exactly when it holds no request, at most one unresolved jalr with issue
waiting for it. (spec/10_state.md R24, R28 and R30, spec/42_csu_rob.md R101, R102 and R112, spec/40_clock_and_bus.md
R81.) -/
def Obligations.PipelineInvariantIsKept : Prop :=
  ∀ s t : State, PipelineInv s → step s = .next t → PipelineInv t

/-- For every state with the pipeline invariant, step does not answer a host fault with code 2 to 7, and if it answers a
host fault, that is IllegalInstruction at the speculated PC with an empty ROB, no flush pending and no jalr pending.
(The extra checks of log entry 6 are among the Inconsistent faults shown unreachable.) (spec/60_exceptions.md R190
(codes 2 to 7), spec/40_clock_and_bus.md R81, spec/20_memory.md R48 and R51, spec/43_reservation_station.md R121,
spec/44_load_store_queue.md R128.) -/
def Obligations.InternalFaultsAreUnreachable : Prop :=
  ∀ s : State, PipelineInv s →
    NoInternalFault (step s) ∧
    ∀ k, step s = .fault (.host k) →
      k = .illegalInstruction s.csu.specPc (fetchWord s) ∧ s.csu.robCount = 0 ∧ s.csu.flushReq = false ∧
        s.csu.jalrWait = false

/-- For every state with the pipeline and playback invariants, if step answers a next state, that state has the playback
invariant: memory in canonical form; each record that of a store whose result is published or ReadyToCommit, or in
the commit latch; every timestamp below the counter, all distinct; as many old bytes as the width. (spec/10_state.md
R33, spec/20_memory.md R52, R54, R55 and R56.) -/
def Obligations.PlaybackInvariantIsKept : Prop :=
  ∀ s t : State, PipelineInv s → PlaybackInv s → step s = .next t → PlaybackInv t

/-- For every state with the register 0 invariant (cell 0 holds 0, its not-ready flag is clear, and no issue latch,
commit latch or ROB entry with has_rd names register 0), if step answers a next state, that state has it.
(spec/10_state.md R14 and R16, spec/41_register_file.md R95, spec/92_eei_decisions.md D37.) -/
def Obligations.RegisterZeroIsNeverWrittenOrTracked : Prop :=
  ∀ s t : State, ZeroRegInv s → step s = .next t → ZeroRegInv t

/-- For every state with the pipeline invariant, the agreement of the issue latch with its ROB entry and the producer
table invariant of R96 (in a tick that is no flush tick, each register other than x0 is marked not-ready with the
youngest live writer that is not in the issue latch; with no such entry it is unmarked, or its mark is the one the
RF clears in this tick), if step answers a next state, that state has the last two. (spec/41_register_file.md R96.) -/
def Obligations.ProducerTableIsKept : Prop :=
  ∀ s t : State, PipelineInv s → issueLatchAgrees s → ProducerTableOk s → step s = .next t →
    issueLatchAgrees t ∧ ProducerTableOk t

/-! ### The correctness property -/

/-- For every program image and every state s that a run from it reaches, if step answers a next state t: with an
invalid commit latch in t the architectural state is unchanged; with a valid one, either the sequential execution
goes on from the architectural state of s to that of t, or it reaches the halt sentinel there with the exit code
that t is Halted with, registers and memory unchanged; and if step faults, it is IllegalInstruction at the address
and word where the sequential execution reaches an unknown word. (spec/42_csu_rob.md R113, R115 and R116,
spec/20_memory.md R58 and R61.) -/
def Obligations.MachineRefinesSequentialExecution : Prop :=
  ∀ (image : List ImageRecord) (n : Nat) (s : State),
    Host.Core.run Sys2Proof.core n (bootWith Config.core image) = .next s → s.drv.status = .running →
    (∀ t, step s = .next t →
      (t.csu.commit = none → archView t = archView s) ∧
      (t.csu.commit ≠ none →
        archStep Config.core (archView s) = .next (archView t) ∨
        ∃ code, archStep Config.core (archView s) = .halt code ∧ t.drv.status = .halted code ∧
          (archView t).regs = (archView s).regs ∧ (archView t).mem = (archView s).mem)) ∧
    (∀ k, step s = .fault (.host k) →
      ∃ pc w, k = .illegalInstruction pc w ∧ archStep Config.core (archView s) = .unknown pc w)

/-! ### The driver, faults and reset -/

/-- With any MAX_CYCLES (none in this hardware), if a step answers a next state t, the cycle counter of t is one more
than before; t is Halted with the low 8 bits of its halt signal if bit 8 of that is set, also in the last tick the
cap allows; otherwise it is Capped if there is a cap and the counter has reached it, and Running otherwise. No
unit's part of t depends on the counter: from two states that differ in the counter only, the parts of all units are
the same. The counter is 0 at reset. (spec/40_clock_and_bus.md R86 and R87, spec/60_exceptions.md R192,
spec/92_eei_decisions.md D12 and D29.) -/
def Obligations.CycleCountsAndTerminationOrder : Prop :=
  (∀ (cap : Option Nat) (s t : State), stepWith { Config.core with maxCycles := cap } s = .next t →
    t.drv.cycle = s.drv.cycle + 1 ∧
    (t.csu.haltSignal.getLsbD 8 = true → t.drv.status = .halted (t.csu.haltSignal.setWidth 8)) ∧
    (t.csu.haltSignal.getLsbD 8 = false →
      ((∃ n, cap = some n ∧ n ≤ t.drv.cycle) → t.drv.status = .capped) ∧
      ((∀ n, cap = some n → t.drv.cycle < n) → t.drv.status = .running))) ∧
    (∀ (i : Instr) (s t u : State) (c : Nat), exec i s = .next t →
      exec i { s with drv := { s.drv with cycle := c } } = .next u →
      u.csu = t.csu ∧ u.rf = t.rf ∧ u.rs = t.rs ∧ u.lsq = t.lsq ∧ u.alu = t.alu ∧ u.mem = t.mem) ∧
    State.reset.drv.cycle = 0

/-- For every state, the step that runs exec of the decoded instruction equals the step of the machine whose parameters
are an argument, at the values the spec gives this hardware: the record that issue takes from the instruction names
the fetched word itself, and no tick reaches an address outside a memory of 2^32 bytes. (spec/00_scope.md R7,
spec/40_clock_and_bus.md R79.) -/
def Obligations.StepIsTheTickOfTheCoreParameters : Prop :=
  ∀ s : State, step s = stepWith Config.core s

/-- Of one state take two ticks that answer a next state, each exec of an instruction or the tick at an Unknown word.
The RF, RS, LSQ, ALU, Memory and driver parts of the two are equal, and so are the CSU's commit latch, actual PC,
head index, halt signal and flush request and every ROB entry but the one at the tail of the state; if neither
issued, the whole CSU is equal. A running step at an Unknown word is such a tick; it issues nothing, out of a flush
tick it leaves the ROB tail, and with the pipeline invariant every exec of that state answers a next state too. So
what is stated of every exec i says of the tick at an Unknown word the same of these parts.
(spec/40_clock_and_bus.md R80 and R82, spec/42_csu_rob.md R97, R104 and R105, spec/20_memory.md R47.) -/
def Obligations.OtherUnitsIgnoreTheFetchedInstruction : Prop :=
  (∀ s t u : State,
      ((∃ i, exec i s = .next t) ∨ ∃ w, unknownTick w s = .next t) →
      ((∃ j, exec j s = .next u) ∨ ∃ w, unknownTick w s = .next u) →
      (t.rf = u.rf ∧ t.rs = u.rs ∧ t.lsq = u.lsq ∧ t.alu = u.alu ∧ t.mem = u.mem ∧ t.drv = u.drv ∧
        t.guard = u.guard) ∧
      (t.csu.commit = u.csu.commit ∧ t.csu.archPc = u.csu.archPc ∧ t.csu.robHead = u.csu.robHead ∧
        t.csu.haltSignal = u.csu.haltSignal ∧ t.csu.flushReq = u.csu.flushReq) ∧
      (∀ k : RobIdx, k ≠ s.csu.robTail → t.csu.rob[k] = u.csu.rob[k]) ∧
      (t.csu.issue = none → u.csu.issue = none → t.csu = u.csu)) ∧
    (∀ (s : State) (e : DecodeReject), s.drv.status = .running → decodeWord Config.core (fetchWord s) = .error e →
      step s = unknownTick (fetchWord s) s) ∧
    (∀ (w : Word) (s t : State), unknownTick w s = .next t →
      t.csu.issue = none ∧ (s.csu.flushReq = false → t.csu.robTail = s.csu.robTail) ∧
      (PipelineInv s → ∀ i : Instr, ∃ u, exec i s = .next u))

/-- For every state and instruction that R61 does not refuse: exec i answers a host fault exactly if some unit's step
raises one; the fault answered is one of those raised and none of those raised has a lower code; otherwise exec i
answers a next state. (spec/60_exceptions.md R192, spec/40_clock_and_bus.md R83, spec/92_eei_decisions.md D28.) -/
def Obligations.LowestFaultIsReported : Prop :=
  ∀ (i : Instr) (s : State), refusedFetch (.known (issueReqOf i)) s = none →
    (tickFaults Config.core (.known (issueReqOf i)) s = [] → ∃ t, exec i s = .next t) ∧
    (tickFaults Config.core (.known (issueReqOf i)) s ≠ [] →
      ∃ k, exec i s = .fault (.host k) ∧ k ∈ tickFaults Config.core (.known (issueReqOf i)) s ∧
        ∀ j ∈ tickFaults Config.core (.known (issueReqOf i)) s, k.code ≤ j.code)

/-- How the model finds the programs that R61 says to refuse is its own choice (log entry 7). After a tick that is no
flush tick, the pending addresses are, under the ROB slot of the store, those of the bytes that the write performed
in the tick changes, and those pending before it whose slot is not the one in the commit latch; after a flush tick
there are none. The addresses of the store in the commit latch join the stored ones, and no others. Out of a flush
tick, exec i is the refusal storedCodeFetched of the head's PC exactly if the head commits and one of the four bytes
at its PC is stored, or pending for the slot in the commit latch. A step of a running machine is refused exactly
then, whatever word is at the speculated PC, or if, with no flush and no jalr pending, an unknown word is at the
speculated PC, the ROB is empty and one of its four bytes is such a byte. (spec/20_memory.md R61,
spec/92_eei_decisions.md D24, notes/assumptions/7.md.) -/
def Obligations.StoredCodeIsRefused : Prop :=
  (∀ (s : State) (pc : Addr), fetchesStored s pc = true ↔
      ∃ k < 4, (pc + BitVec.ofNat 32 k).toNat ∈ s.guard.stored ∨
        ∃ c, s.csu.commit = some c ∧ (c.rob, (pc + BitVec.ofNat 32 k).toNat) ∈ s.guard.pending) ∧
    (∀ (i : Instr) (s : State), s.csu.flushReq = false → s.csu.commits = true →
      fetchesStored s s.csu.headEntry.pc = true → exec i s = .refused (.storedCodeFetched s.csu.headEntry.pc)) ∧
    (∀ (i : Instr) (s : State) (r : Refusal), exec i s = .refused r →
      r = .storedCodeFetched s.csu.headEntry.pc ∧ s.csu.flushReq = false ∧ s.csu.commits = true ∧
        fetchesStored s s.csu.headEntry.pc = true) ∧
    (∀ s : State, s.drv.status = .running → s.csu.flushReq = false → s.csu.commits = true →
      fetchesStored s s.csu.headEntry.pc = true → step s = .refused (.storedCodeFetched s.csu.headEntry.pc)) ∧
    (∀ (s : State) (e : DecodeReject), s.drv.status = .running →
      decodeWord Config.core (fetchWord s) = .error e → s.csu.flushReq = false → s.csu.jalrWait = false →
      s.csu.robCount = 0 → fetchesStored s s.csu.specPc = true →
      step s = .refused (.storedCodeFetched s.csu.specPc)) ∧
    (∀ (s : State) (r : Refusal), step s = .refused r → s.drv.status = .running ∧ s.csu.flushReq = false ∧
      ((r = .storedCodeFetched s.csu.headEntry.pc ∧ s.csu.commits = true ∧
          fetchesStored s s.csu.headEntry.pc = true) ∨
        (r = .storedCodeFetched s.csu.specPc ∧ (∃ e, decodeWord Config.core (fetchWord s) = .error e) ∧
          s.csu.jalrWait = false ∧ s.csu.robCount = 0 ∧ fetchesStored s s.csu.specPc = true))) ∧
    (∀ s t : State, (step s = .next t ∨ ∃ i, exec i s = .next t) →
      (∀ n : Nat, n ∈ t.guard.stored ↔
        n ∈ s.guard.stored ∨ ∃ c, s.csu.commit = some c ∧ (c.rob, n) ∈ s.guard.pending) ∧
      (∀ (q : RobIdx) (n : Nat), (q, n) ∈ t.guard.pending ↔ s.csu.flushReq = false ∧
        (((q, n) ∈ s.guard.pending ∧ ∀ c, s.csu.commit = some c → c.rob ≠ q) ∨
          ∃ p w k, memWriting s = some (p, w) ∧ k < w.bytes ∧ q = p.rob ∧
            n = (p.addr + BitVec.ofNat 32 k).toNat ∧
            s.mem.bytes.read8 (p.addr + BitVec.ofNat 32 k) ≠ byteOfWord p.data k)))

/-- For every choice of the parameters, every program image and every address: memory in the state before tick 0 is in
canonical form; a byte that no record of the image covers reads as UNLOADED_BYTE; and a byte that a record covers,
and no later byte of that record and no later record covers, reads as that record's byte, addresses counted modulo
2^32. (spec/20_memory.md R39 and R40, spec/70_reset_and_hazards.md R200 and R201, spec/92_eei_decisions.md D3 and
D30.) -/
def Obligations.ImageIsLoadedOverUnloadedBytes : Prop :=
  ∀ (cfg : Config) (image : List ImageRecord), (bootWith cfg image).mem.bytes.wf = true ∧
    ∀ a : Addr,
      ((∀ r ∈ image, ∀ k < r.bytes.length, a ≠ r.addr + BitVec.ofNat 32 k) →
        (bootWith cfg image).mem.bytes.read8 a = cfg.unloadedByte) ∧
      (∀ (before after : List ImageRecord) (r : ImageRecord) (k : Nat), image = before ++ r :: after →
        k < r.bytes.length → a = r.addr + BitVec.ofNat 32 k →
        (∀ j, k < j → j < r.bytes.length → a ≠ r.addr + BitVec.ofNat 32 j) →
        (∀ q ∈ after, ∀ j < q.bytes.length, a ≠ q.addr + BitVec.ofNat 32 j) →
        r.bytes[k]? = some ((bootWith cfg image).mem.bytes.read8 a))

/-- With LSQ_SIZE = n for any n (32 in this hardware), if a step answers a next state t: a count of at most n stays at
most n; out of a flush tick a record in the issue latch for the LSQ finds a count other than n; and a record for the
LSQ is in t's issue latch only if the count of s, plus 1 if a record for the LSQ is being accepted, was below n.
(spec/44_load_store_queue.md R126, R128 and R131, spec/10_state.md R30, spec/42_csu_rob.md R106,
spec/92_eei_decisions.md D8.) -/
def Obligations.LsqNeverHoldsMoreThanItsSize : Prop :=
  ∀ (n : Nat) (s t : State), stepWith { Config.core with lsqSize := n } s = .next t →
    (s.lsq.count ≤ n → t.lsq.count ≤ n) ∧
    (s.csu.flushReq = false → ∀ u, s.csu.issue = some u → u.unit = .lsq → s.lsq.count ≠ n) ∧
    (∀ v, t.csu.issue = some v → v.unit = .lsq →
      s.lsq.count < n ∧ ∀ u, s.csu.issue = some u → u.unit = .lsq → s.lsq.count + 1 < n)

/-- At reset every register holds 0 and none is marked not-ready, both PCs are 0x00000000, every ROB entry and RS slot
is Empty with its other fields 0 or None (nothing is said of their class), every LSQ entry is Empty, the pointers
and counts are 0, every latch is invalid, no flush and no jalr is pending, the halt signal is 0, every byte of
memory is 0x00, Memory is Free with nothing pending, no playback record and the counter 0, and the driver is Running
at cycle 0. (spec/10_state.md R37 (its values are the spec's decisions D3, D6, D7 and D33),
spec/70_reset_and_hazards.md R200 and R202.) -/
def Obligations.ResetValues : Prop :=
  (∀ r : RegIdx, State.reset.rf.read r = 0#32 ∧ State.reset.rf.isBusy r = false ∧ State.reset.rf.producerOf r = 0) ∧
    (State.reset.csu.specPc = 0x00000000#32 ∧ State.reset.csu.archPc = 0x00000000#32 ∧
      State.reset.csu.haltSignal = 0#32 ∧ State.reset.csu.flushReq = false ∧ State.reset.csu.jalrWait = false ∧
      State.reset.csu.issue = none ∧ State.reset.csu.commit = none ∧
      (∀ i : RobIdx, (State.reset.csu.rob[i]).isCleared) ∧
      State.reset.csu.robHead = 0 ∧ State.reset.csu.robTail = 0 ∧ State.reset.csu.robCount = 0) ∧
    ((∀ i : RsIdx, (State.reset.rs.slot[i]).isCleared) ∧ State.reset.rs.dispatch = none) ∧
    ((∀ i : LsqIdx, (State.reset.lsq.entry[i]).state = .empty) ∧ State.reset.lsq.head = 0 ∧
      State.reset.lsq.tail = 0 ∧ State.reset.lsq.count = 0 ∧ State.reset.lsq.req = none) ∧
    State.reset.alu.out = none ∧
    ((∀ a : Addr, State.reset.mem.bytes.read8 a = 0x00#8) ∧ State.reset.mem.state = .free ∧
      State.reset.mem.pending = none ∧ State.reset.mem.out = none ∧
      (∀ i : RobIdx, State.reset.mem.playback[i] = none) ∧ State.reset.mem.wcount = 0) ∧
    (State.reset.drv.cycle = 0 ∧ State.reset.drv.status = .running)

end Statements
end

