-- ==== Sys2Proof/Laws/Memory.lean ====
section
/-! SUPPORT. Memory (R38, R43): the canonical form is kept by every operation, a read after a write, and two memories
in canonical form that read alike are equal. -/

namespace Sys2Proof.Machine

/-! ### The canonical form -/

theorem Memory.wfFrom_cons {lo k : Nat} {b : Byte} {m : Memory} :
    Memory.wfFrom lo ((k, b) :: m) = true ↔
      lo ≤ k ∧ k < 2 ^ 32 ∧ b ≠ unloadedByte ∧ Memory.wfFrom (k + 1) m = true := by
  simp [Memory.wfFrom, and_assoc]

theorem Memory.wfFrom_mono {lo lo' : Nat} {m : Memory} (h : Memory.wfFrom lo m = true) (hl : lo' ≤ lo) :
    Memory.wfFrom lo' m = true := by
  cases m with
  | nil => rfl
  | cons x m =>
    obtain ⟨k, b⟩ := x
    rw [Memory.wfFrom_cons] at h ⊢
    exact ⟨le_trans hl h.1, h.2⟩

@[simp] theorem Memory.wf_nil : Memory.wf [] = true := rfl

theorem Memory.lookup_below {lo n : Nat} {m : Memory} (h : Memory.wfFrom lo m = true) (hn : n < lo) :
    m.lookup n = unloadedByte := by
  induction m generalizing lo with
  | nil => rfl
  | cons x m ih =>
    obtain ⟨k, b⟩ := x
    rw [Memory.wfFrom_cons] at h
    rw [Memory.lookup, if_neg (by omega)]
    exact ih h.2.2.2 (by omega)

theorem Memory.put_wfFrom {lo n : Nat} {b : Byte} {m : Memory} (h : Memory.wfFrom lo m = true) (hl : lo ≤ n)
    (hn : n < 2 ^ 32) : Memory.wfFrom lo (m.put n b) = true := by
  induction m generalizing lo with
  | nil =>
    unfold Memory.put
    split
    · rfl
    · exact Memory.wfFrom_cons.2 ⟨hl, hn, by assumption, rfl⟩
  | cons x m ih =>
    obtain ⟨k, c⟩ := x
    have h' := Memory.wfFrom_cons.1 h
    obtain ⟨h1, h2, h3, h4⟩ := h'
    unfold Memory.put
    split
    · split
      · exact h
      · exact Memory.wfFrom_cons.2 ⟨hl, hn, by assumption,
          Memory.wfFrom_cons.2 ⟨by omega, h2, h3, h4⟩⟩
    · split
      · split
        · exact Memory.wfFrom_mono h4 (by omega)
        · exact Memory.wfFrom_cons.2 ⟨hl, hn, by assumption, Memory.wfFrom_mono h4 (by omega)⟩
      · exact Memory.wfFrom_cons.2 ⟨h1, h2, h3, ih h4 (by omega)⟩

theorem Memory.lookup_put {lo n : Nat} {b : Byte} {m : Memory} (h : Memory.wfFrom lo m = true) (k : Nat) :
    (m.put n b).lookup k = if k = n then b else m.lookup k := by
  induction m generalizing lo with
  | nil =>
    unfold Memory.put
    split
    next hb => by_cases hk : k = n <;> simp [Memory.lookup, hk, hb]
    next => by_cases hk : k = n <;> simp [Memory.lookup, hk, Ne.symm]
  | cons x m ih =>
    obtain ⟨j, c⟩ := x
    obtain ⟨h1, h2, h3, h4⟩ := Memory.wfFrom_cons.1 h
    unfold Memory.put
    split
    · split
      · split
        · subst_vars
          rw [Memory.lookup, if_neg (by omega), Memory.lookup_below h4 (by omega)]
        · rfl
      · simp only [Memory.lookup, eq_comm]
    · split
      · subst_vars
        split
        · by_cases hk : k = j
          · subst_vars; simp [Memory.lookup_below h4]
          · rw [if_neg hk, Memory.lookup, if_neg (Ne.symm hk)]
        · by_cases hk : k = j
          · simp [Memory.lookup, hk]
          · simp [Memory.lookup, hk, Ne.symm hk]
      · rw [Memory.lookup, Memory.lookup, ih h4]
        by_cases hk : k = n
        · subst hk; rw [if_pos rfl, if_neg (by omega), if_pos rfl]
        · simp [hk]

/-- Two memories in canonical form that read alike at every address are the same list. -/
theorem Memory.ext_lookup {lo lo' : Nat} {m m' : Memory} (h : Memory.wfFrom lo m = true)
    (h' : Memory.wfFrom lo' m' = true) (he : ∀ n, m.lookup n = m'.lookup n) : m = m' := by
  induction m generalizing lo lo' m' with
  | nil =>
    cases m' with
    | nil => rfl
    | cons x m' =>
      obtain ⟨k, b⟩ := x
      exact absurd (he k).symm (by simpa [Memory.lookup] using (Memory.wfFrom_cons.1 h').2.2.1)
  | cons x m ih =>
    obtain ⟨k, b⟩ := x
    obtain ⟨-, h2, h3, h4⟩ := Memory.wfFrom_cons.1 h
    cases m' with
    | nil => exact absurd (he k) (by simpa [Memory.lookup] using h3)
    | cons y m' =>
      obtain ⟨j, c⟩ := y
      obtain ⟨-, g2, g3, g4⟩ := Memory.wfFrom_cons.1 h'
      have hkj : k = j := by
        rcases lt_trichotomy k j with hlt | heq | hgt
        · have := he k
          rw [Memory.lookup, if_pos rfl, Memory.lookup, if_neg (by omega),
            Memory.lookup_below g4 (by omega)] at this
          exact absurd this h3
        · exact heq
        · have := he j
          rw [Memory.lookup, if_neg (by omega), Memory.lookup_below h4 (by omega), Memory.lookup,
            if_pos rfl] at this
          exact absurd this.symm g3
      subst hkj
      have hbc : b = c := by simpa [Memory.lookup] using he k
      subst hbc
      congr 1
      refine ih h4 g4 fun n => ?_
      by_cases hn : k = n
      · subst hn; rw [Memory.lookup_below h4 (by omega), Memory.lookup_below g4 (by omega)]
      · simpa [Memory.lookup, hn] using he n

/-- Equal memories are equal data, said of the addresses that exist. -/
theorem Memory.ext_read8 {m m' : Memory} (h : m.wf = true) (h' : m'.wf = true)
    (he : ∀ a : Addr, m.read8 a = m'.read8 a) : m = m' := by
  refine Memory.ext_lookup h h' fun n => ?_
  by_cases hn : n < 2 ^ 32
  · have hm : n % 2 ^ 32 = n := Nat.mod_eq_of_lt hn
    have := he (BitVec.ofNat 32 n)
    rwa [Memory.read8, Memory.read8, BitVec.toNat_ofNat, hm] at this
  · have key : ∀ {lo : Nat} {m : Memory}, Memory.wfFrom lo m = true → m.lookup n = unloadedByte := by
      intro lo m hm
      induction m generalizing lo with
      | nil => rfl
      | cons x m ih =>
        obtain ⟨k, b⟩ := x
        obtain ⟨-, h2, -, h4⟩ := Memory.wfFrom_cons.1 hm
        rw [Memory.lookup, if_neg (by omega)]
        exact ih h4
    rw [key h, key h']

/-! ### One byte -/

theorem Memory.write8_wf {m : Memory} (h : m.wf = true) (a : Addr) (b : Byte) : (m.write8 a b).wf = true :=
  Memory.put_wfFrom h (Nat.zero_le _) a.isLt

theorem Memory.read8_write8 {m : Memory} (h : m.wf = true) (a c : Addr) (b : Byte) :
    (m.write8 a b).read8 c = if c = a then b else m.read8 c := by
  simp only [Memory.read8, Memory.write8, Memory.lookup_put h, BitVec.toNat_inj]

/-! ### Several bytes -/

theorem Memory.writeBytes_wf {m : Memory} (h : m.wf = true) (a : Addr) (bs : List Byte) :
    (m.writeBytes a bs).wf = true := by
  induction bs generalizing m a with
  | nil => exact h
  | cons b bs ih => exact ih (Memory.write8_wf h a b) _

theorem Memory.store_wf {m : Memory} (h : m.wf = true) (w : Width) (a : Addr) (v : Word) :
    (m.store w a v).wf = true :=
  Memory.writeBytes_wf h _ _

theorem loadImage_wf {m : Memory} (h : m.wf = true) (image : List ImageRecord) : (loadImage m image).wf = true := by
  induction image generalizing m with
  | nil => exact h
  | cons r image ih => exact ih (Memory.writeBytes_wf h _ _)

theorem undoOne_wf {m : Memory} (h : m.wf = true) (r : Playback) : (undoOne m r).wf = true :=
  Memory.writeBytes_wf h _ _

theorem undoAll_wf {m : Memory} (h : m.wf = true) (rs : List Playback) : (undoAll m rs).wf = true := by
  unfold undoAll
  generalize descendingTs rs = l
  induction l generalizing m with
  | nil => exact h
  | cons r l ih => exact ih (undoOne_wf h r)

/-- A byte at an address that is none of those written is unchanged. -/
theorem Memory.read8_writeBytes_outside {m : Memory} (h : m.wf = true) (a c : Addr) (bs : List Byte)
    (hc : ∀ k < bs.length, c ≠ a + BitVec.ofNat 32 k) : (m.writeBytes a bs).read8 c = m.read8 c := by
  induction bs generalizing m a with
  | nil => rfl
  | cons b bs ih =>
    rw [Memory.writeBytes, ih (Memory.write8_wf h a b)]
    · rw [Memory.read8_write8 h, if_neg (by simpa using hc 0 (by simp))]
    · intro k hk
      have := hc (k + 1) (by simpa using hk)
      rw [BitVec.add_assoc]
      intro he
      apply this
      rw [he, BitVec.add_comm 1#32, ← BitVec.ofNat_add]

theorem addr_add_ne {a : Addr} {j k : Nat} (hj : j < 2 ^ 32) (hk : k < 2 ^ 32) (h : j ≠ k) :
    a + BitVec.ofNat 32 j ≠ a + BitVec.ofNat 32 k := by
  intro he
  have := congrArg BitVec.toNat (add_left_cancel he)
  rw [BitVec.toNat_ofNat, BitVec.toNat_ofNat, Nat.mod_eq_of_lt hj, Nat.mod_eq_of_lt hk] at this
  exact h this

/-- A byte at one of the addresses written is the one written there. -/
theorem Memory.read8_writeBytes_inside {m : Memory} (h : m.wf = true) (a : Addr) (bs : List Byte)
    (hl : bs.length ≤ 2 ^ 32) (k : Nat) (hk : k < bs.length) :
    (m.writeBytes a bs).read8 (a + BitVec.ofNat 32 k) = bs[k] := by
  induction bs generalizing m a k with
  | nil => simp at hk
  | cons b bs ih =>
    rw [List.length_cons] at hl hk
    cases k with
    | zero =>
      rw [Memory.writeBytes, Memory.read8_writeBytes_outside (Memory.write8_wf h a b),
        Memory.read8_write8 h, if_pos (by simp)]
      · rfl
      · intro j hj
        rw [BitVec.add_assoc, ← BitVec.ofNat_add]
        exact addr_add_ne (by omega) (by omega) (by omega)
    | succ k =>
      have := ih (Memory.write8_wf h a b) (a + 1#32) (by omega) k (by omega)
      rw [BitVec.add_assoc, ← BitVec.ofNat_add, Nat.add_comm] at this
      simpa [Memory.writeBytes] using this

@[simp] theorem Memory.readBytes_length (m : Memory) (a : Addr) (n : Nat) : (m.readBytes a n).length = n := by
  simp [Memory.readBytes]

@[simp] theorem storeBytes_length (w : Width) (v : Word) : (storeBytes w v).length = w.bytes := by
  cases w <;> rfl

theorem storeBytes_le (w : Width) (v : Word) : (storeBytes w v).length ≤ 2 ^ 32 := by
  cases w <;> simp [storeBytes]

/-- A store leaves every byte outside its own alone. -/
theorem Memory.read8_store_outside {m : Memory} (h : m.wf = true) (w : Width) (a c : Addr) (v : Word)
    (hc : ∀ k < w.bytes, c ≠ a + BitVec.ofNat 32 k) : (m.store w a v).read8 c = m.read8 c :=
  Memory.read8_writeBytes_outside h a c _ (by simpa using hc)

/-- A store's byte `k` is bits `8k+7 : 8k` of its value. -/
theorem Memory.read8_store_inside {m : Memory} (h : m.wf = true) (w : Width) (a : Addr) (v : Word) (k : Nat)
    (hk : k < w.bytes) : (m.store w a v).read8 (a + BitVec.ofNat 32 k) = byteOfWord v k := by
  rw [Memory.store, Memory.read8_writeBytes_inside h a _ (storeBytes_le w _) k (by simpa using hk)]
  cases w <;> simp only [Width.bytes] at hk <;> interval_cases k <;> rfl

/-- Writing back the bytes read at `a` undoes a write of as many bytes there. -/
theorem Memory.writeBytes_readBytes {m : Memory} (h : m.wf = true) (a : Addr) (bs : List Byte)
    (hl : bs.length ≤ 2 ^ 32) : (m.writeBytes a bs).writeBytes a (m.readBytes a bs.length) = m := by
  have hw := Memory.writeBytes_wf h a bs
  refine Memory.ext_read8 (Memory.writeBytes_wf hw _ _) h fun c => ?_
  by_cases hc : ∃ k < bs.length, c = a + BitVec.ofNat 32 k
  · obtain ⟨k, hk, rfl⟩ := hc
    rw [Memory.read8_writeBytes_inside hw a _ (by simpa using hl) k (by simpa using hk)]
    simp [Memory.readBytes]
  · push Not at hc
    rw [Memory.read8_writeBytes_outside hw a c _ (by simpa using hc),
      Memory.read8_writeBytes_outside h a c _ hc]

/-- R56: undoing a store's own record gives the memory before it. -/
theorem undoOne_store (u : MemUnit) (h : u.bytes.wf = true) (p : MemRequest) (w : Width) :
    undoOne (u.bytes.store w p.addr p.data) (playbackOf u p w) = u.bytes := by
  have := Memory.writeBytes_readBytes h p.addr (storeBytes w p.data) (storeBytes_le w _)
  rwa [storeBytes_length] at this

/-! ### Reset -/

theorem Memory.fillFrom_wfFrom {b : Byte} (hb : b ≠ unloadedByte) (lo n : Nat) (h : lo + n ≤ 2 ^ 32) :
    Memory.wfFrom lo (Memory.fillFrom b lo n) = true := by
  induction n generalizing lo with
  | zero => rfl
  | succ n ih => exact Memory.wfFrom_cons.2 ⟨le_refl _, by omega, hb, ih _ (by omega)⟩

theorem Memory.lookup_fillFrom (b : Byte) (lo n k : Nat) (h : lo ≤ k) (hk : k < lo + n) :
    (Memory.fillFrom b lo n).lookup k = b := by
  induction n generalizing lo with
  | zero => omega
  | succ n ih =>
    rw [Memory.fillFrom, Memory.lookup]
    split
    · rfl
    · exact ih _ (by omega) (by omega)

theorem Memory.unloaded_wf (b : Byte) : (Memory.unloaded b).wf = true := by
  unfold Memory.unloaded
  split
  · rfl
  · exact Memory.fillFrom_wfFrom (by assumption) 0 _ (by omega)

/-- R40: before the image is loaded every byte holds UNLOADED_BYTE. -/
theorem Memory.read8_unloaded (b : Byte) (a : Addr) : (Memory.unloaded b).read8 a = b := by
  unfold Memory.unloaded
  split
  · next h => exact h.symm
  · exact Memory.lookup_fillFrom b 0 _ _ (by omega) (by omega)

@[simp] theorem reset_memory : State.reset.mem.bytes = [] := rfl

theorem boot_memory_wf (cfg : Config) (image : List ImageRecord) : (bootWith cfg image).mem.bytes.wf = true :=
  loadImage_wf (Memory.unloaded_wf _) image

theorem memBytesNext_wf {s : State} (h : s.mem.bytes.wf = true) : (memBytesNext s).wf = true := by
  unfold memBytesNext
  split
  · exact undoAll_wf h _
  · split
    · exact Memory.store_wf h _ _ _
    · exact h

end Sys2Proof.Machine
end

