-- ==== Sys2Proof/Laws/Admission.lean ====
section
/-! SUPPORT. The addresses that the check of R61 remembers (Machine/Admission.lean): what each of its lists holds. -/

namespace Sys2Proof.Machine

theorem addr_succ_add (a : Addr) (k : Nat) : a + 1#32 + BitVec.ofNat 32 k = a + BitVec.ofNat 32 (k + 1) := by
  rw [BitVec.add_assoc]
  congr 1
  apply BitVec.eq_of_toNat_eq
  simp [Nat.add_comm]

/-- The addresses at which a write changes memory. -/
theorem mem_changedFrom (m : Memory) (a : Addr) (bs : List Byte) (n : Nat) :
    n ∈ changedFrom m a bs ↔
      ∃ k, ∃ h : k < bs.length, n = (a + BitVec.ofNat 32 k).toNat ∧ m.read8 (a + BitVec.ofNat 32 k) ≠ bs[k] := by
  induction bs generalizing a with
  | nil => simp [changedFrom]
  | cons b bs ih =>
    have key : n ∈ changedFrom m a (b :: bs) ↔
        (n = a.toNat ∧ m.read8 a ≠ b) ∨ n ∈ changedFrom m (a + 1#32) bs := by
      rw [changedFrom]
      split <;> next h => simp [h]
    rw [key, ih]
    constructor
    · rintro (⟨h1, h2⟩ | ⟨k, hk, h1, h2⟩)
      · exact ⟨0, by simp, by simp [h1], by simpa using h2⟩
      · exact ⟨k + 1, by simpa using hk, by rw [← addr_succ_add]; exact h1, by rw [← addr_succ_add]; simpa using h2⟩
    · rintro ⟨k, hk, h1, h2⟩
      cases k with
      | zero =>
        left
        simp at h1 h2
        exact ⟨h1, h2⟩
      | succ k =>
        exact .inr ⟨k, by simpa using hk, by rw [addr_succ_add]; exact h1, by rw [addr_succ_add]; simpa using h2⟩

/-- R43: byte `k` of a store. -/
theorem storeBytes_getElem (w : Width) (v : Word) (k : Nat) (h : k < (storeBytes w v).length) :
    (storeBytes w v)[k] = byteOfWord v k := by
  cases w <;> simp only [storeBytes, List.length_cons, List.length_nil] at h <;> interval_cases k <;> rfl

theorem mem_foldl_noteStored (l known : List Nat) (n : Nat) :
    n ∈ l.foldl noteStored known ↔ n ∈ known ∨ n ∈ l := by
  induction l generalizing known with
  | nil => simp
  | cons x l ih =>
    have : n ∈ noteStored known x ↔ n ∈ known ∨ n = x := by
      unfold noteStored
      split
      · exact ⟨.inl, fun h => h.elim id fun e => e ▸ ‹_›⟩
      · simp [or_comm]
    rw [List.foldl_cons, ih, this]
    simp [or_assoc]

theorem commitsSlot_iff (s : State) (q : RobIdx) :
    commitsSlot s q = true ↔ ∃ c, s.csu.commit = some c ∧ c.rob = q := by
  unfold commitsSlot
  cases s.csu.commit <;> simp

theorem mem_committingChanges (s : State) (n : Nat) :
    n ∈ committingChanges s ↔ ∃ c, s.csu.commit = some c ∧ (c.rob, n) ∈ s.guard.pending := by
  simp only [committingChanges, List.mem_map, List.mem_filter, commitsSlot_iff]
  constructor
  · rintro ⟨⟨q, n'⟩, ⟨h, c, hc, rfl⟩, rfl⟩
    exact ⟨c, hc, h⟩
  · rintro ⟨c, hc, h⟩
    exact ⟨_, ⟨h, c, hc, rfl⟩, rfl⟩

end Sys2Proof.Machine
end

