-- ==== Sys2Proof/Laws/Words.lean ====
section
/-! SUPPORT. The fields of the words the encoder builds (R64, R65, R66): each format's fields are the ones it was given,
and a word is rebuilt from its fields. -/

namespace Sys2Proof

/-! ### R format -/

@[simp] theorem opcode_encodeR (f7 : BitVec 7) (f3 : BitVec 3) (op : BitVec 7) (rd rs1 rs2 : RegIdx) :
    Field.opcode (encodeR f7 f3 op rd rs1 rs2) = op := by
  apply BitVec.eq_of_getLsbD_eq
  intro i hi
  simp only [Field.opcode, encodeR, BitVec.getLsbD_extractLsb', BitVec.getLsbD_append]
  interval_cases i <;> simp

@[simp] theorem rd_encodeR (f7 : BitVec 7) (f3 : BitVec 3) (op : BitVec 7) (rd rs1 rs2 : RegIdx) :
    Field.rd (encodeR f7 f3 op rd rs1 rs2) = rd := by
  apply BitVec.eq_of_getLsbD_eq
  intro i hi
  simp only [Field.rd, encodeR, BitVec.getLsbD_extractLsb', BitVec.getLsbD_append]
  interval_cases i <;> simp

@[simp] theorem funct3_encodeR (f7 : BitVec 7) (f3 : BitVec 3) (op : BitVec 7) (rd rs1 rs2 : RegIdx) :
    Field.funct3 (encodeR f7 f3 op rd rs1 rs2) = f3 := by
  apply BitVec.eq_of_getLsbD_eq
  intro i hi
  simp only [Field.funct3, encodeR, BitVec.getLsbD_extractLsb', BitVec.getLsbD_append]
  interval_cases i <;> simp

@[simp] theorem rs1_encodeR (f7 : BitVec 7) (f3 : BitVec 3) (op : BitVec 7) (rd rs1 rs2 : RegIdx) :
    Field.rs1 (encodeR f7 f3 op rd rs1 rs2) = rs1 := by
  apply BitVec.eq_of_getLsbD_eq
  intro i hi
  simp only [Field.rs1, encodeR, BitVec.getLsbD_extractLsb', BitVec.getLsbD_append]
  interval_cases i <;> simp

@[simp] theorem rs2_encodeR (f7 : BitVec 7) (f3 : BitVec 3) (op : BitVec 7) (rd rs1 rs2 : RegIdx) :
    Field.rs2 (encodeR f7 f3 op rd rs1 rs2) = rs2 := by
  apply BitVec.eq_of_getLsbD_eq
  intro i hi
  simp only [Field.rs2, encodeR, BitVec.getLsbD_extractLsb', BitVec.getLsbD_append]
  interval_cases i <;> simp

@[simp] theorem shamt_encodeR (f7 : BitVec 7) (f3 : BitVec 3) (op : BitVec 7) (rd rs1 rs2 : RegIdx) :
    Field.shamt (encodeR f7 f3 op rd rs1 rs2) = rs2 := by
  apply BitVec.eq_of_getLsbD_eq
  intro i hi
  simp only [Field.shamt, encodeR, BitVec.getLsbD_extractLsb', BitVec.getLsbD_append]
  interval_cases i <;> simp

@[simp] theorem funct7_encodeR (f7 : BitVec 7) (f3 : BitVec 3) (op : BitVec 7) (rd rs1 rs2 : RegIdx) :
    Field.funct7 (encodeR f7 f3 op rd rs1 rs2) = f7 := by
  apply BitVec.eq_of_getLsbD_eq
  intro i hi
  simp only [Field.funct7, encodeR, BitVec.getLsbD_extractLsb', BitVec.getLsbD_append]
  interval_cases i <;> simp

theorem encodeR_fields (w : Word) :
    encodeR (Field.funct7 w) (Field.funct3 w) (Field.opcode w) (Field.rd w) (Field.rs1 w) (Field.rs2 w) = w := by
  apply BitVec.eq_of_getLsbD_eq
  intro i hi
  simp only [Field.opcode, Field.rd, Field.funct3, Field.rs1, Field.rs2, Field.funct7, encodeR, BitVec.getLsbD_extractLsb', BitVec.getLsbD_append]
  interval_cases i <;> simp

/-! ### I format -/

@[simp] theorem opcode_encodeI (f3 : BitVec 3) (op : BitVec 7) (rd rs1 : RegIdx) (imm : BitVec 12) :
    Field.opcode (encodeI f3 op rd rs1 imm) = op := by
  apply BitVec.eq_of_getLsbD_eq
  intro i hi
  simp only [Field.opcode, encodeI, BitVec.getLsbD_extractLsb', BitVec.getLsbD_append]
  interval_cases i <;> simp

@[simp] theorem rd_encodeI (f3 : BitVec 3) (op : BitVec 7) (rd rs1 : RegIdx) (imm : BitVec 12) :
    Field.rd (encodeI f3 op rd rs1 imm) = rd := by
  apply BitVec.eq_of_getLsbD_eq
  intro i hi
  simp only [Field.rd, encodeI, BitVec.getLsbD_extractLsb', BitVec.getLsbD_append]
  interval_cases i <;> simp

@[simp] theorem funct3_encodeI (f3 : BitVec 3) (op : BitVec 7) (rd rs1 : RegIdx) (imm : BitVec 12) :
    Field.funct3 (encodeI f3 op rd rs1 imm) = f3 := by
  apply BitVec.eq_of_getLsbD_eq
  intro i hi
  simp only [Field.funct3, encodeI, BitVec.getLsbD_extractLsb', BitVec.getLsbD_append]
  interval_cases i <;> simp

@[simp] theorem rs1_encodeI (f3 : BitVec 3) (op : BitVec 7) (rd rs1 : RegIdx) (imm : BitVec 12) :
    Field.rs1 (encodeI f3 op rd rs1 imm) = rs1 := by
  apply BitVec.eq_of_getLsbD_eq
  intro i hi
  simp only [Field.rs1, encodeI, BitVec.getLsbD_extractLsb', BitVec.getLsbD_append]
  interval_cases i <;> simp

@[simp] theorem immI_encodeI (f3 : BitVec 3) (op : BitVec 7) (rd rs1 : RegIdx) (imm : BitVec 12) :
    Field.immI (encodeI f3 op rd rs1 imm) = imm := by
  apply BitVec.eq_of_getLsbD_eq
  intro i hi
  simp only [Field.immI, encodeI, BitVec.getLsbD_extractLsb', BitVec.getLsbD_append]
  interval_cases i <;> simp

theorem encodeI_fields (w : Word) :
    encodeI (Field.funct3 w) (Field.opcode w) (Field.rd w) (Field.rs1 w) (Field.immI w) = w := by
  apply BitVec.eq_of_getLsbD_eq
  intro i hi
  simp only [Field.opcode, Field.rd, Field.funct3, Field.rs1, Field.immI, encodeI, BitVec.getLsbD_extractLsb', BitVec.getLsbD_append]
  interval_cases i <;> simp

/-! ### S format -/

@[simp] theorem opcode_encodeS (f3 : BitVec 3) (op : BitVec 7) (rs1 rs2 : RegIdx) (imm : BitVec 12) :
    Field.opcode (encodeS f3 op rs1 rs2 imm) = op := by
  apply BitVec.eq_of_getLsbD_eq
  intro i hi
  simp only [Field.opcode, encodeS, BitVec.getLsbD_extractLsb', BitVec.getLsbD_append]
  interval_cases i <;> simp

@[simp] theorem funct3_encodeS (f3 : BitVec 3) (op : BitVec 7) (rs1 rs2 : RegIdx) (imm : BitVec 12) :
    Field.funct3 (encodeS f3 op rs1 rs2 imm) = f3 := by
  apply BitVec.eq_of_getLsbD_eq
  intro i hi
  simp only [Field.funct3, encodeS, BitVec.getLsbD_extractLsb', BitVec.getLsbD_append]
  interval_cases i <;> simp

@[simp] theorem rs1_encodeS (f3 : BitVec 3) (op : BitVec 7) (rs1 rs2 : RegIdx) (imm : BitVec 12) :
    Field.rs1 (encodeS f3 op rs1 rs2 imm) = rs1 := by
  apply BitVec.eq_of_getLsbD_eq
  intro i hi
  simp only [Field.rs1, encodeS, BitVec.getLsbD_extractLsb', BitVec.getLsbD_append]
  interval_cases i <;> simp

@[simp] theorem rs2_encodeS (f3 : BitVec 3) (op : BitVec 7) (rs1 rs2 : RegIdx) (imm : BitVec 12) :
    Field.rs2 (encodeS f3 op rs1 rs2 imm) = rs2 := by
  apply BitVec.eq_of_getLsbD_eq
  intro i hi
  simp only [Field.rs2, encodeS, BitVec.getLsbD_extractLsb', BitVec.getLsbD_append]
  interval_cases i <;> simp

@[simp] theorem immS_encodeS (f3 : BitVec 3) (op : BitVec 7) (rs1 rs2 : RegIdx) (imm : BitVec 12) :
    Field.immS (encodeS f3 op rs1 rs2 imm) = imm := by
  apply BitVec.eq_of_getLsbD_eq
  intro i hi
  simp only [Field.immS, encodeS, BitVec.getLsbD_extractLsb', BitVec.getLsbD_append]
  interval_cases i <;> simp

theorem encodeS_fields (w : Word) :
    encodeS (Field.funct3 w) (Field.opcode w) (Field.rs1 w) (Field.rs2 w) (Field.immS w) = w := by
  apply BitVec.eq_of_getLsbD_eq
  intro i hi
  simp only [Field.opcode, Field.funct3, Field.rs1, Field.rs2, Field.immS, encodeS, BitVec.getLsbD_extractLsb', BitVec.getLsbD_append]
  interval_cases i <;> simp

/-! ### B format -/

@[simp] theorem opcode_encodeB (f3 : BitVec 3) (op : BitVec 7) (rs1 rs2 : RegIdx) (off : BitVec 13) :
    Field.opcode (encodeB f3 op rs1 rs2 off) = op := by
  apply BitVec.eq_of_getLsbD_eq
  intro i hi
  simp only [Field.opcode, encodeB, BitVec.getLsbD_extractLsb', BitVec.getLsbD_append]
  interval_cases i <;> simp

@[simp] theorem funct3_encodeB (f3 : BitVec 3) (op : BitVec 7) (rs1 rs2 : RegIdx) (off : BitVec 13) :
    Field.funct3 (encodeB f3 op rs1 rs2 off) = f3 := by
  apply BitVec.eq_of_getLsbD_eq
  intro i hi
  simp only [Field.funct3, encodeB, BitVec.getLsbD_extractLsb', BitVec.getLsbD_append]
  interval_cases i <;> simp

@[simp] theorem rs1_encodeB (f3 : BitVec 3) (op : BitVec 7) (rs1 rs2 : RegIdx) (off : BitVec 13) :
    Field.rs1 (encodeB f3 op rs1 rs2 off) = rs1 := by
  apply BitVec.eq_of_getLsbD_eq
  intro i hi
  simp only [Field.rs1, encodeB, BitVec.getLsbD_extractLsb', BitVec.getLsbD_append]
  interval_cases i <;> simp

@[simp] theorem rs2_encodeB (f3 : BitVec 3) (op : BitVec 7) (rs1 rs2 : RegIdx) (off : BitVec 13) :
    Field.rs2 (encodeB f3 op rs1 rs2 off) = rs2 := by
  apply BitVec.eq_of_getLsbD_eq
  intro i hi
  simp only [Field.rs2, encodeB, BitVec.getLsbD_extractLsb', BitVec.getLsbD_append]
  interval_cases i <;> simp

@[simp] theorem immB_encodeB (f3 : BitVec 3) (op : BitVec 7) (rs1 rs2 : RegIdx) (off : BitVec 13) (h : evenOffset off = true) :
    Field.immB (encodeB f3 op rs1 rs2 off) = off := by
  apply BitVec.eq_of_getLsbD_eq
  intro i hi
  simp only [Field.immB, encodeB, BitVec.getLsbD_extractLsb', BitVec.getLsbD_append]
  simp only [evenOffset] at h
  interval_cases i <;> simp_all

theorem encodeB_fields (w : Word) :
    encodeB (Field.funct3 w) (Field.opcode w) (Field.rs1 w) (Field.rs2 w) (Field.immB w) = w := by
  apply BitVec.eq_of_getLsbD_eq
  intro i hi
  simp only [Field.opcode, Field.funct3, Field.rs1, Field.rs2, Field.immB, encodeB, BitVec.getLsbD_extractLsb', BitVec.getLsbD_append]
  interval_cases i <;> simp

/-! ### U format -/

@[simp] theorem opcode_encodeU (op : BitVec 7) (rd : RegIdx) (imm : BitVec 20) :
    Field.opcode (encodeU op rd imm) = op := by
  apply BitVec.eq_of_getLsbD_eq
  intro i hi
  simp only [Field.opcode, encodeU, BitVec.getLsbD_extractLsb', BitVec.getLsbD_append]
  interval_cases i <;> simp

@[simp] theorem rd_encodeU (op : BitVec 7) (rd : RegIdx) (imm : BitVec 20) :
    Field.rd (encodeU op rd imm) = rd := by
  apply BitVec.eq_of_getLsbD_eq
  intro i hi
  simp only [Field.rd, encodeU, BitVec.getLsbD_extractLsb', BitVec.getLsbD_append]
  interval_cases i <;> simp

@[simp] theorem immU_encodeU (op : BitVec 7) (rd : RegIdx) (imm : BitVec 20) :
    Field.immU (encodeU op rd imm) = imm := by
  apply BitVec.eq_of_getLsbD_eq
  intro i hi
  simp only [Field.immU, encodeU, BitVec.getLsbD_extractLsb', BitVec.getLsbD_append]
  interval_cases i <;> simp

theorem encodeU_fields (w : Word) :
    encodeU (Field.opcode w) (Field.rd w) (Field.immU w) = w := by
  apply BitVec.eq_of_getLsbD_eq
  intro i hi
  simp only [Field.opcode, Field.rd, Field.immU, encodeU, BitVec.getLsbD_extractLsb', BitVec.getLsbD_append]
  interval_cases i <;> simp

/-! ### J format -/

@[simp] theorem opcode_encodeJ (op : BitVec 7) (rd : RegIdx) (off : BitVec 21) :
    Field.opcode (encodeJ op rd off) = op := by
  apply BitVec.eq_of_getLsbD_eq
  intro i hi
  simp only [Field.opcode, encodeJ, BitVec.getLsbD_extractLsb', BitVec.getLsbD_append]
  interval_cases i <;> simp

@[simp] theorem rd_encodeJ (op : BitVec 7) (rd : RegIdx) (off : BitVec 21) :
    Field.rd (encodeJ op rd off) = rd := by
  apply BitVec.eq_of_getLsbD_eq
  intro i hi
  simp only [Field.rd, encodeJ, BitVec.getLsbD_extractLsb', BitVec.getLsbD_append]
  interval_cases i <;> simp

@[simp] theorem immJ_encodeJ (op : BitVec 7) (rd : RegIdx) (off : BitVec 21) (h : evenOffset off = true) :
    Field.immJ (encodeJ op rd off) = off := by
  apply BitVec.eq_of_getLsbD_eq
  intro i hi
  simp only [Field.immJ, encodeJ, BitVec.getLsbD_extractLsb', BitVec.getLsbD_append]
  simp only [evenOffset] at h
  interval_cases i <;> simp_all

theorem encodeJ_fields (w : Word) :
    encodeJ (Field.opcode w) (Field.rd w) (Field.immJ w) = w := by
  apply BitVec.eq_of_getLsbD_eq
  intro i hi
  simp only [Field.opcode, Field.rd, Field.immJ, encodeJ, BitVec.getLsbD_extractLsb', BitVec.getLsbD_append]
  interval_cases i <;> simp

/-! ### Offsets and bytes -/

theorem evenOffset_immB (w : Word) : evenOffset (Field.immB w) = true := by
  simp only [evenOffset, Field.immB, BitVec.getLsbD_append]
  rfl

theorem evenOffset_immJ (w : Word) : evenOffset (Field.immJ w) = true := by
  simp only [evenOffset, Field.immJ, BitVec.getLsbD_append]
  rfl

/-- R43, R63: a word's bytes, put together again. -/
@[simp] theorem wordOfBytes_byteOfWord (w : Word) :
    wordOfBytes (byteOfWord w 0) (byteOfWord w 1) (byteOfWord w 2) (byteOfWord w 3) = w := by
  apply BitVec.eq_of_getLsbD_eq
  intro i hi
  simp only [wordOfBytes, byteOfWord, BitVec.getLsbD_extractLsb', BitVec.getLsbD_append]
  interval_cases i <;> simp

/-- R43: the bytes of a word put together from four. -/
theorem byteOfWord_wordOfBytes (b0 b1 b2 b3 : Byte) :
    byteOfWord (wordOfBytes b0 b1 b2 b3) 0 = b0 ∧ byteOfWord (wordOfBytes b0 b1 b2 b3) 1 = b1 ∧
      byteOfWord (wordOfBytes b0 b1 b2 b3) 2 = b2 ∧ byteOfWord (wordOfBytes b0 b1 b2 b3) 3 = b3 := by
  refine ⟨?_, ?_, ?_, ?_⟩ <;>
    (apply BitVec.eq_of_getLsbD_eq
     intro i hi
     simp only [wordOfBytes, byteOfWord, BitVec.getLsbD_extractLsb', BitVec.getLsbD_append]
     interval_cases i <;> simp)

end Sys2Proof
end

