-- ==== Sys2Proof/Laws/PerInstr.lean ====
section
/-! SUPPORT. The per-instruction families. EncodingRow: an instruction's word has the opcode, funct3 and funct7 that the
table of R69 gives its class. IssueRow: what issue broadcasts for an instruction names its word, its class, and
the register operands and destination that the table gives its class. -/

/-- R69: the word's key fields are those of the class's row. -/
def Sys2Proof.Laws.EncodingRow.Statement (i : Sys2Proof.Instr) : Prop :=
  Sys2Proof.Field.opcode (Sys2Proof.encode i) = i.cls.row.opcode ∧
    (∀ k, i.cls.row.funct3 = some k → Sys2Proof.Field.funct3 (Sys2Proof.encode i) = k) ∧
    (∀ k, i.cls.row.funct7 = some k → Sys2Proof.Field.funct7 (Sys2Proof.encode i) = k)

/-- R69, R71, R110: the issue record names the row's operands. -/
def Sys2Proof.Laws.IssueRow.Statement (i : Sys2Proof.Instr) : Prop :=
  (Sys2Proof.Machine.issueReqOf i).word = Sys2Proof.encode i ∧
    (Sys2Proof.Machine.issueReqOf i).cls = i.cls ∧
    (Sys2Proof.Machine.issueReqOf i).writesRd = i.cls.row.writesRd ∧
    (Sys2Proof.Machine.issueReqOf i).src1.isSome = i.cls.row.usesRs1 ∧
    (Sys2Proof.Machine.issueReqOf i).src2.isSome = i.cls.row.usesRs2

namespace Sys2Proof.Laws.EncodingRow

theorem lui (rd : RegIdx) (imm : BitVec 20) : Statement (.lui rd imm) := by
  simp [Statement, encode, Instr.cls, OpClass.row]

theorem auipc (rd : RegIdx) (imm : BitVec 20) : Statement (.auipc rd imm) := by
  simp [Statement, encode, Instr.cls, OpClass.row]

theorem jal (rd : RegIdx) (off : BitVec 21) : Statement (.jal rd off) := by
  simp [Statement, encode, Instr.cls, OpClass.row]

theorem jalr (rd rs1 : RegIdx) (imm : BitVec 12) : Statement (.jalr rd rs1 imm) := by
  simp [Statement, encode, Instr.cls, OpClass.row]

theorem beq (rs1 rs2 : RegIdx) (off : BitVec 13) : Statement (.beq rs1 rs2 off) := by
  simp [Statement, encode, Instr.cls, OpClass.row]

theorem bne (rs1 rs2 : RegIdx) (off : BitVec 13) : Statement (.bne rs1 rs2 off) := by
  simp [Statement, encode, Instr.cls, OpClass.row]

theorem blt (rs1 rs2 : RegIdx) (off : BitVec 13) : Statement (.blt rs1 rs2 off) := by
  simp [Statement, encode, Instr.cls, OpClass.row]

theorem bge (rs1 rs2 : RegIdx) (off : BitVec 13) : Statement (.bge rs1 rs2 off) := by
  simp [Statement, encode, Instr.cls, OpClass.row]

theorem bltu (rs1 rs2 : RegIdx) (off : BitVec 13) : Statement (.bltu rs1 rs2 off) := by
  simp [Statement, encode, Instr.cls, OpClass.row]

theorem bgeu (rs1 rs2 : RegIdx) (off : BitVec 13) : Statement (.bgeu rs1 rs2 off) := by
  simp [Statement, encode, Instr.cls, OpClass.row]

theorem lb (rd rs1 : RegIdx) (imm : BitVec 12) : Statement (.lb rd rs1 imm) := by
  simp [Statement, encode, Instr.cls, OpClass.row]

theorem lh (rd rs1 : RegIdx) (imm : BitVec 12) : Statement (.lh rd rs1 imm) := by
  simp [Statement, encode, Instr.cls, OpClass.row]

theorem lw (rd rs1 : RegIdx) (imm : BitVec 12) : Statement (.lw rd rs1 imm) := by
  simp [Statement, encode, Instr.cls, OpClass.row]

theorem lbu (rd rs1 : RegIdx) (imm : BitVec 12) : Statement (.lbu rd rs1 imm) := by
  simp [Statement, encode, Instr.cls, OpClass.row]

theorem lhu (rd rs1 : RegIdx) (imm : BitVec 12) : Statement (.lhu rd rs1 imm) := by
  simp [Statement, encode, Instr.cls, OpClass.row]

theorem sb (rs1 rs2 : RegIdx) (imm : BitVec 12) : Statement (.sb rs1 rs2 imm) := by
  simp [Statement, encode, Instr.cls, OpClass.row]

theorem sh (rs1 rs2 : RegIdx) (imm : BitVec 12) : Statement (.sh rs1 rs2 imm) := by
  simp [Statement, encode, Instr.cls, OpClass.row]

theorem sw (rs1 rs2 : RegIdx) (imm : BitVec 12) : Statement (.sw rs1 rs2 imm) := by
  simp [Statement, encode, Instr.cls, OpClass.row]

theorem addi (rd rs1 : RegIdx) (imm : BitVec 12) : Statement (.addi rd rs1 imm) := by
  simp [Statement, encode, Instr.cls, OpClass.row]

theorem slti (rd rs1 : RegIdx) (imm : BitVec 12) : Statement (.slti rd rs1 imm) := by
  simp [Statement, encode, Instr.cls, OpClass.row]

theorem sltiu (rd rs1 : RegIdx) (imm : BitVec 12) : Statement (.sltiu rd rs1 imm) := by
  simp [Statement, encode, Instr.cls, OpClass.row]

theorem xori (rd rs1 : RegIdx) (imm : BitVec 12) : Statement (.xori rd rs1 imm) := by
  simp [Statement, encode, Instr.cls, OpClass.row]

theorem ori (rd rs1 : RegIdx) (imm : BitVec 12) : Statement (.ori rd rs1 imm) := by
  simp [Statement, encode, Instr.cls, OpClass.row]

theorem andi (rd rs1 : RegIdx) (imm : BitVec 12) : Statement (.andi rd rs1 imm) := by
  simp [Statement, encode, Instr.cls, OpClass.row]

theorem slli (rd rs1 : RegIdx) (shamt : BitVec 5) : Statement (.slli rd rs1 shamt) := by
  simp [Statement, encode, Instr.cls, OpClass.row]

theorem srli (rd rs1 : RegIdx) (shamt : BitVec 5) : Statement (.srli rd rs1 shamt) := by
  simp [Statement, encode, Instr.cls, OpClass.row]

theorem srai (rd rs1 : RegIdx) (shamt : BitVec 5) : Statement (.srai rd rs1 shamt) := by
  simp [Statement, encode, Instr.cls, OpClass.row]

theorem add (rd rs1 rs2 : RegIdx) : Statement (.add rd rs1 rs2) := by
  simp [Statement, encode, Instr.cls, OpClass.row]

theorem sub (rd rs1 rs2 : RegIdx) : Statement (.sub rd rs1 rs2) := by
  simp [Statement, encode, Instr.cls, OpClass.row]

theorem sll (rd rs1 rs2 : RegIdx) : Statement (.sll rd rs1 rs2) := by
  simp [Statement, encode, Instr.cls, OpClass.row]

theorem slt (rd rs1 rs2 : RegIdx) : Statement (.slt rd rs1 rs2) := by
  simp [Statement, encode, Instr.cls, OpClass.row]

theorem sltu (rd rs1 rs2 : RegIdx) : Statement (.sltu rd rs1 rs2) := by
  simp [Statement, encode, Instr.cls, OpClass.row]

theorem xor (rd rs1 rs2 : RegIdx) : Statement (.xor rd rs1 rs2) := by
  simp [Statement, encode, Instr.cls, OpClass.row]

theorem srl (rd rs1 rs2 : RegIdx) : Statement (.srl rd rs1 rs2) := by
  simp [Statement, encode, Instr.cls, OpClass.row]

theorem sra (rd rs1 rs2 : RegIdx) : Statement (.sra rd rs1 rs2) := by
  simp [Statement, encode, Instr.cls, OpClass.row]

theorem or (rd rs1 rs2 : RegIdx) : Statement (.or rd rs1 rs2) := by
  simp [Statement, encode, Instr.cls, OpClass.row]

theorem and (rd rs1 rs2 : RegIdx) : Statement (.and rd rs1 rs2) := by
  simp [Statement, encode, Instr.cls, OpClass.row]

theorem halt : Statement (.halt) := by
  refine ⟨?_, ?_, ?_⟩ <;> decide

end Sys2Proof.Laws.EncodingRow

namespace Sys2Proof.Laws.IssueRow

theorem lui (rd : RegIdx) (imm : BitVec 20) : Statement (.lui rd imm) :=
  ⟨rfl, rfl, rfl, rfl, rfl⟩

theorem auipc (rd : RegIdx) (imm : BitVec 20) : Statement (.auipc rd imm) :=
  ⟨rfl, rfl, rfl, rfl, rfl⟩

theorem jal (rd : RegIdx) (off : BitVec 21) : Statement (.jal rd off) :=
  ⟨rfl, rfl, rfl, rfl, rfl⟩

theorem jalr (rd rs1 : RegIdx) (imm : BitVec 12) : Statement (.jalr rd rs1 imm) :=
  ⟨rfl, rfl, rfl, rfl, rfl⟩

theorem beq (rs1 rs2 : RegIdx) (off : BitVec 13) : Statement (.beq rs1 rs2 off) :=
  ⟨rfl, rfl, rfl, rfl, rfl⟩

theorem bne (rs1 rs2 : RegIdx) (off : BitVec 13) : Statement (.bne rs1 rs2 off) :=
  ⟨rfl, rfl, rfl, rfl, rfl⟩

theorem blt (rs1 rs2 : RegIdx) (off : BitVec 13) : Statement (.blt rs1 rs2 off) :=
  ⟨rfl, rfl, rfl, rfl, rfl⟩

theorem bge (rs1 rs2 : RegIdx) (off : BitVec 13) : Statement (.bge rs1 rs2 off) :=
  ⟨rfl, rfl, rfl, rfl, rfl⟩

theorem bltu (rs1 rs2 : RegIdx) (off : BitVec 13) : Statement (.bltu rs1 rs2 off) :=
  ⟨rfl, rfl, rfl, rfl, rfl⟩

theorem bgeu (rs1 rs2 : RegIdx) (off : BitVec 13) : Statement (.bgeu rs1 rs2 off) :=
  ⟨rfl, rfl, rfl, rfl, rfl⟩

theorem lb (rd rs1 : RegIdx) (imm : BitVec 12) : Statement (.lb rd rs1 imm) :=
  ⟨rfl, rfl, rfl, rfl, rfl⟩

theorem lh (rd rs1 : RegIdx) (imm : BitVec 12) : Statement (.lh rd rs1 imm) :=
  ⟨rfl, rfl, rfl, rfl, rfl⟩

theorem lw (rd rs1 : RegIdx) (imm : BitVec 12) : Statement (.lw rd rs1 imm) :=
  ⟨rfl, rfl, rfl, rfl, rfl⟩

theorem lbu (rd rs1 : RegIdx) (imm : BitVec 12) : Statement (.lbu rd rs1 imm) :=
  ⟨rfl, rfl, rfl, rfl, rfl⟩

theorem lhu (rd rs1 : RegIdx) (imm : BitVec 12) : Statement (.lhu rd rs1 imm) :=
  ⟨rfl, rfl, rfl, rfl, rfl⟩

theorem sb (rs1 rs2 : RegIdx) (imm : BitVec 12) : Statement (.sb rs1 rs2 imm) :=
  ⟨rfl, rfl, rfl, rfl, rfl⟩

theorem sh (rs1 rs2 : RegIdx) (imm : BitVec 12) : Statement (.sh rs1 rs2 imm) :=
  ⟨rfl, rfl, rfl, rfl, rfl⟩

theorem sw (rs1 rs2 : RegIdx) (imm : BitVec 12) : Statement (.sw rs1 rs2 imm) :=
  ⟨rfl, rfl, rfl, rfl, rfl⟩

theorem addi (rd rs1 : RegIdx) (imm : BitVec 12) : Statement (.addi rd rs1 imm) :=
  ⟨rfl, rfl, rfl, rfl, rfl⟩

theorem slti (rd rs1 : RegIdx) (imm : BitVec 12) : Statement (.slti rd rs1 imm) :=
  ⟨rfl, rfl, rfl, rfl, rfl⟩

theorem sltiu (rd rs1 : RegIdx) (imm : BitVec 12) : Statement (.sltiu rd rs1 imm) :=
  ⟨rfl, rfl, rfl, rfl, rfl⟩

theorem xori (rd rs1 : RegIdx) (imm : BitVec 12) : Statement (.xori rd rs1 imm) :=
  ⟨rfl, rfl, rfl, rfl, rfl⟩

theorem ori (rd rs1 : RegIdx) (imm : BitVec 12) : Statement (.ori rd rs1 imm) :=
  ⟨rfl, rfl, rfl, rfl, rfl⟩

theorem andi (rd rs1 : RegIdx) (imm : BitVec 12) : Statement (.andi rd rs1 imm) :=
  ⟨rfl, rfl, rfl, rfl, rfl⟩

theorem slli (rd rs1 : RegIdx) (shamt : BitVec 5) : Statement (.slli rd rs1 shamt) :=
  ⟨rfl, rfl, rfl, rfl, rfl⟩

theorem srli (rd rs1 : RegIdx) (shamt : BitVec 5) : Statement (.srli rd rs1 shamt) :=
  ⟨rfl, rfl, rfl, rfl, rfl⟩

theorem srai (rd rs1 : RegIdx) (shamt : BitVec 5) : Statement (.srai rd rs1 shamt) :=
  ⟨rfl, rfl, rfl, rfl, rfl⟩

theorem add (rd rs1 rs2 : RegIdx) : Statement (.add rd rs1 rs2) :=
  ⟨rfl, rfl, rfl, rfl, rfl⟩

theorem sub (rd rs1 rs2 : RegIdx) : Statement (.sub rd rs1 rs2) :=
  ⟨rfl, rfl, rfl, rfl, rfl⟩

theorem sll (rd rs1 rs2 : RegIdx) : Statement (.sll rd rs1 rs2) :=
  ⟨rfl, rfl, rfl, rfl, rfl⟩

theorem slt (rd rs1 rs2 : RegIdx) : Statement (.slt rd rs1 rs2) :=
  ⟨rfl, rfl, rfl, rfl, rfl⟩

theorem sltu (rd rs1 rs2 : RegIdx) : Statement (.sltu rd rs1 rs2) :=
  ⟨rfl, rfl, rfl, rfl, rfl⟩

theorem xor (rd rs1 rs2 : RegIdx) : Statement (.xor rd rs1 rs2) :=
  ⟨rfl, rfl, rfl, rfl, rfl⟩

theorem srl (rd rs1 rs2 : RegIdx) : Statement (.srl rd rs1 rs2) :=
  ⟨rfl, rfl, rfl, rfl, rfl⟩

theorem sra (rd rs1 rs2 : RegIdx) : Statement (.sra rd rs1 rs2) :=
  ⟨rfl, rfl, rfl, rfl, rfl⟩

theorem or (rd rs1 rs2 : RegIdx) : Statement (.or rd rs1 rs2) :=
  ⟨rfl, rfl, rfl, rfl, rfl⟩

theorem and (rd rs1 rs2 : RegIdx) : Statement (.and rd rs1 rs2) :=
  ⟨rfl, rfl, rfl, rfl, rfl⟩

theorem halt : Statement (.halt) :=
  ⟨rfl, rfl, rfl, rfl, rfl⟩

end Sys2Proof.Laws.IssueRow
end

