-- ==== Sys2Proof/Laws/Registers.lean ====
section
/-! SUPPORT. Registers (R10, R14, R95): what a read gives after a write, and that register 0 stays as it is. -/

namespace Sys2Proof.Machine

/-- R10, R95: a write reaches its own register only, and register 0 never. -/
theorem setReg_get {α : Type} (t : Vector α nRegs) (r q : RegIdx) (v : α) :
    (setReg t r v)[q.toNat]'q.isLt = if q = r ∧ r ≠ 0#5 then v else t[q.toNat]'q.isLt := by
  unfold setReg
  by_cases hr : r = 0#5
  · simp [hr]
  · by_cases hq : q = r
    · subst hq; simp [hr]
    · have : r.toNat ≠ q.toNat := fun h => hq (BitVec.eq_of_toNat_eq h.symm)
      simp [hr, hq, Vector.getElem_set_ne, this]

@[simp] theorem setReg_zero {α : Type} (t : Vector α nRegs) (v : α) : setReg t 0#5 v = t := by simp [setReg]

theorem setReg_of_ne {α : Type} (t : Vector α nRegs) (r : RegIdx) (v : α) (h : r ≠ 0#5) :
    setReg t r v = t.set r.toNat v r.isLt := by simp [setReg, h]

/-- R14: register 0 reads as 0. -/
@[simp] theorem RegFile.read_zero (rf : RegFile) : rf.read 0#5 = 0#32 := by simp [RegFile.read]

@[simp] theorem RegFile.isBusy_zero (rf : RegFile) : rf.isBusy 0#5 = false := by simp [RegFile.isBusy]

/-- R89, R95: reading after a write of the value table. -/
theorem RegFile.read_setReg (rf : RegFile) (r q : RegIdx) (v : Word) :
    ({ rf with value := setReg rf.value r v } : RegFile).read q =
      if q = r ∧ r ≠ 0#5 then v else rf.read q := by
  unfold RegFile.read
  by_cases hq : q = 0#5
  · subst hq
    by_cases hr : (0#5 : RegIdx) = r
    · subst hr; simp
    · simp [hr]
  · simp only [hq, if_false]
    exact setReg_get rf.value r q v

/-- R91: in a tick with nothing to commit no register changes. -/
theorem rfValueNext_of_noCommit {s : State} (h : s.csu.commit = none) : rfValueNext s = s.rf.value := by
  simp [rfValueNext, h]

theorem rfValueNext_of_commit {s : State} {c : CommitLatch} (h : s.csu.commit = some c) (hd : c.hasRd = true) :
    rfValueNext s = setReg s.rf.value c.rd c.value := by
  simp [rfValueNext, h, hd]

theorem rfValueNext_of_commit_noRd {s : State} {c : CommitLatch} (h : s.csu.commit = some c) (hd : c.hasRd = false) :
    rfValueNext s = s.rf.value := by
  simp [rfValueNext, h, hd]

/-- R94: in a flush tick every not-ready flag is cleared. -/
theorem rfBusyNext_of_flush {s : State} (h : s.csu.flushReq = true) :
    rfBusyNext s = Vector.replicate nRegs false := by
  simp [rfBusyNext, h]

end Sys2Proof.Machine
end

