-- ==== Sys2Proof/Laws/State.lean ====
section
/-! SUPPORT. One lemma per field per update of the state, each true by unfolding the update: what the sync, a tick's
unit steps, a flush of the CSU, the loading of a word and the end of a run do to each part of the state. -/

namespace Sys2Proof.Machine

/-! ### The sync (R79, R87) -/

@[simp] theorem afterSync_csu (cfg : Config) (s : State) : (afterSync cfg s).csu = s.csu := rfl
@[simp] theorem afterSync_rf (cfg : Config) (s : State) : (afterSync cfg s).rf = s.rf := rfl
@[simp] theorem afterSync_rs (cfg : Config) (s : State) : (afterSync cfg s).rs = s.rs := rfl
@[simp] theorem afterSync_lsq (cfg : Config) (s : State) : (afterSync cfg s).lsq = s.lsq := rfl
@[simp] theorem afterSync_alu (cfg : Config) (s : State) : (afterSync cfg s).alu = s.alu := rfl
@[simp] theorem afterSync_mem (cfg : Config) (s : State) : (afterSync cfg s).mem = s.mem := rfl
@[simp] theorem afterSync_guard (cfg : Config) (s : State) : (afterSync cfg s).guard = s.guard := rfl
@[simp] theorem afterSync_cycle (cfg : Config) (s : State) : (afterSync cfg s).drv.cycle = s.drv.cycle + 1 := rfl
@[simp] theorem afterSync_status (cfg : Config) (s : State) :
    (afterSync cfg s).drv.status = statusAfter cfg s.csu (s.drv.cycle + 1) := rfl

/-! ### The unit steps (R79) -/

@[simp] theorem unitsNext_csu (cfg : Config) (f : Fetched) (s : State) : (unitsNext cfg f s).csu = csuNext cfg f s := rfl
@[simp] theorem unitsNext_rf (cfg : Config) (f : Fetched) (s : State) : (unitsNext cfg f s).rf = rfNext s := rfl
@[simp] theorem unitsNext_rs (cfg : Config) (f : Fetched) (s : State) : (unitsNext cfg f s).rs = rsNext s := rfl
@[simp] theorem unitsNext_lsq (cfg : Config) (f : Fetched) (s : State) : (unitsNext cfg f s).lsq = lsqNext cfg s := rfl
@[simp] theorem unitsNext_alu (cfg : Config) (f : Fetched) (s : State) : (unitsNext cfg f s).alu = aluNext s := rfl
@[simp] theorem unitsNext_mem (cfg : Config) (f : Fetched) (s : State) : (unitsNext cfg f s).mem = memNext s := rfl
@[simp] theorem unitsNext_drv (cfg : Config) (f : Fetched) (s : State) : (unitsNext cfg f s).drv = s.drv := rfl
@[simp] theorem unitsNext_guard (cfg : Config) (f : Fetched) (s : State) : (unitsNext cfg f s).guard = guardNext s := rfl

/-! ### The fields each unit stages -/

@[simp] theorem rfNext_value (s : State) : (rfNext s).value = rfValueNext s := rfl
@[simp] theorem rfNext_busy (s : State) : (rfNext s).busy = rfBusyNext s := rfl
@[simp] theorem rfNext_producer (s : State) : (rfNext s).producer = rfProducerNext s := rfl
@[simp] theorem rsNext_slot (s : State) : (rsNext s).slot = Vector.ofFn (rsSlotNext s) := rfl
@[simp] theorem rsNext_dispatch (s : State) : (rsNext s).dispatch = rsDispatchNext s := rfl
@[simp] theorem lsqNext_entry (cfg : Config) (s : State) : (lsqNext cfg s).entry = Vector.ofFn (lsqEntryNext s) := rfl
@[simp] theorem lsqNext_req (cfg : Config) (s : State) : (lsqNext cfg s).req = lsqReqNext s := rfl
@[simp] theorem memNext_bytes (s : State) : (memNext s).bytes = memBytesNext s := rfl
@[simp] theorem memNext_state (s : State) : (memNext s).state = memStateNext s := rfl
@[simp] theorem memNext_pending (s : State) : (memNext s).pending = memPendingNext s := rfl
@[simp] theorem memNext_out (s : State) : (memNext s).out = memOutNext s := rfl
@[simp] theorem memNext_playback (s : State) : (memNext s).playback = Vector.ofFn (memPlaybackNext s) := rfl

theorem rsNext_slot_get (s : State) (i : RsIdx) : (rsNext s).slot[i] = rsSlotNext s i := by
  simp [rsNext]
theorem lsqNext_entry_get (cfg : Config) (s : State) (i : LsqIdx) : (lsqNext cfg s).entry[i] = lsqEntryNext s i := by
  simp [lsqNext]
theorem memNext_playback_get (s : State) (i : RobIdx) : (memNext s).playback[i] = memPlaybackNext s i := by
  simp [memNext]

/-! ### The CSU in a flush tick and out of one (R98, R97) -/

@[simp] theorem csuFlushed_specPc (c : Csu) : (csuFlushed c).specPc = c.archPc := rfl
@[simp] theorem csuFlushed_archPc (c : Csu) : (csuFlushed c).archPc = c.archPc := rfl
@[simp] theorem csuFlushed_flushReq (c : Csu) : (csuFlushed c).flushReq = false := rfl
@[simp] theorem csuFlushed_jalrWait (c : Csu) : (csuFlushed c).jalrWait = false := rfl
@[simp] theorem csuFlushed_haltSignal (c : Csu) : (csuFlushed c).haltSignal = c.haltSignal := rfl
@[simp] theorem csuFlushed_rob (c : Csu) : (csuFlushed c).rob = Vector.replicate robSize RobEntry.empty := rfl
@[simp] theorem csuFlushed_robHead (c : Csu) : (csuFlushed c).robHead = 0 := rfl
@[simp] theorem csuFlushed_robTail (c : Csu) : (csuFlushed c).robTail = 0 := rfl
@[simp] theorem csuFlushed_robCount (c : Csu) : (csuFlushed c).robCount = 0 := rfl
@[simp] theorem csuFlushed_issue (c : Csu) : (csuFlushed c).issue = none := rfl
@[simp] theorem csuFlushed_commit (c : Csu) : (csuFlushed c).commit = none := rfl
theorem csuFlushed_rob_get (c : Csu) (i : RobIdx) : (csuFlushed c).rob[i] = RobEntry.empty := by
  simp [csuFlushed]

theorem csuNext_of_flush (cfg : Config) (f : Fetched) {s : State} (h : s.csu.flushReq = true) :
    csuNext cfg f s = csuFlushed s.csu := by
  simp [csuNext, h]

theorem csuNext_specPc (cfg : Config) (f : Fetched) {s : State} (h : s.csu.flushReq = false) :
    (csuNext cfg f s).specPc = specPcNext cfg s f := by
  simp [csuNext, h]
theorem csuNext_archPc (cfg : Config) (f : Fetched) {s : State} (h : s.csu.flushReq = false) :
    (csuNext cfg f s).archPc = if s.csu.commits then s.csu.headEntry.resolvedPc else s.csu.archPc := by
  simp [csuNext, h]
theorem csuNext_flushReq (cfg : Config) (f : Fetched) {s : State} (h : s.csu.flushReq = false) :
    (csuNext cfg f s).flushReq = s.csu.flushNow := by
  simp [csuNext, h]
theorem csuNext_jalrWait (cfg : Config) (f : Fetched) {s : State} (h : s.csu.flushReq = false) :
    (csuNext cfg f s).jalrWait = jalrWaitNext cfg s f := by
  simp [csuNext, h]
theorem csuNext_haltSignal (cfg : Config) (f : Fetched) {s : State} (h : s.csu.flushReq = false) :
    (csuNext cfg f s).haltSignal = if s.csu.commits && s.csu.headEntry.cls == .halt then haltLatch cfg s else s.csu.haltSignal := by
  simp [csuNext, h]
theorem csuNext_robHead (cfg : Config) (f : Fetched) {s : State} (h : s.csu.flushReq = false) :
    (csuNext cfg f s).robHead = if s.csu.commits then s.csu.robHead + 1 else s.csu.robHead := by
  simp [csuNext, h]
theorem csuNext_robTail (cfg : Config) (f : Fetched) {s : State} (h : s.csu.flushReq = false) :
    (csuNext cfg f s).robTail = if (issuing cfg s f).isSome then s.csu.robTail + 1 else s.csu.robTail := by
  simp [csuNext, h]
theorem csuNext_robCount (cfg : Config) (f : Fetched) {s : State} (h : s.csu.flushReq = false) :
    (csuNext cfg f s).robCount = robCountNext cfg s f := by
  simp [csuNext, h]
theorem csuNext_issue (cfg : Config) (f : Fetched) {s : State} (h : s.csu.flushReq = false) :
    (csuNext cfg f s).issue = (issuing cfg s f).map (issueLatchOf cfg s) := by
  simp only [csuNext, h]; cases issuing cfg s f <;> rfl
theorem csuNext_commit (cfg : Config) (f : Fetched) {s : State} (h : s.csu.flushReq = false) :
    (csuNext cfg f s).commit = if s.csu.commits then some s.csu.commitLatch else none := by
  simp [csuNext, h]
theorem csuNext_rob_get (cfg : Config) (f : Fetched) {s : State} (h : s.csu.flushReq = false) (i : RobIdx) :
    (csuNext cfg f s).rob[i] = robEntryNext cfg s f i := by
  simp [csuNext, h]

/-! ### A flush tick in the other units (R94, R122, R129, R56, R132) -/

theorem rsSlotNext_of_flush {s : State} (h : s.csu.flushReq = true) (i : RsIdx) : rsSlotNext s i = RsSlot.empty := by
  simp [rsSlotNext, h]
theorem rsDispatchNext_of_flush {s : State} (h : s.csu.flushReq = true) : rsDispatchNext s = none := by
  simp [rsDispatchNext, h]
theorem lsqEntryNext_of_flush {s : State} (h : s.csu.flushReq = true) (i : LsqIdx) :
    lsqEntryNext s i = LsqEntry.empty := by
  simp [lsqEntryNext, h]
theorem lsqReqNext_of_flush {s : State} (h : s.csu.flushReq = true) : lsqReqNext s = none := by
  simp [lsqReqNext, h]
theorem aluNext_of_flush {s : State} (h : s.csu.flushReq = true) : (aluNext s).out = none := by
  simp [aluNext, h]
theorem memPlaybackNext_of_flush {s : State} (h : s.csu.flushReq = true) (i : RobIdx) :
    memPlaybackNext s i = none := by
  simp [memPlaybackNext, h]
theorem memStateNext_of_flush {s : State} (h : s.csu.flushReq = true) : memStateNext s = .free := by
  simp [memStateNext, h]
theorem memPendingNext_of_flush {s : State} (h : s.csu.flushReq = true) : memPendingNext s = none := by
  simp [memPendingNext, h]
theorem memPerforming_of_flush {s : State} (h : s.csu.flushReq = true) : memPerforming s = none := by
  simp [memPerforming, h]
theorem memOutNext_of_flush {s : State} (h : s.csu.flushReq = true) : memOutNext s = none := by
  simp [memOutNext, memPerforming_of_flush h]

/-! ### The end of a run and the loading of a word -/

@[simp] theorem faultedState_csu (s : State) (k : HostFault) : (faultedState s k).csu = s.csu := rfl
@[simp] theorem faultedState_rf (s : State) (k : HostFault) : (faultedState s k).rf = s.rf := rfl
@[simp] theorem faultedState_rs (s : State) (k : HostFault) : (faultedState s k).rs = s.rs := rfl
@[simp] theorem faultedState_lsq (s : State) (k : HostFault) : (faultedState s k).lsq = s.lsq := rfl
@[simp] theorem faultedState_alu (s : State) (k : HostFault) : (faultedState s k).alu = s.alu := rfl
@[simp] theorem faultedState_mem (s : State) (k : HostFault) : (faultedState s k).mem = s.mem := rfl
@[simp] theorem faultedState_guard (s : State) (k : HostFault) : (faultedState s k).guard = s.guard := rfl
@[simp] theorem faultedState_status (s : State) (k : HostFault) : (faultedState s k).drv.status = .faulted k := rfl
@[simp] theorem faultedState_cycle (s : State) (k : HostFault) : (faultedState s k).drv.cycle = s.drv.cycle := rfl

@[simp] theorem withFetchWord_csu (s : State) (nbits w : Nat) : (s.withFetchWord nbits w).csu = s.csu := rfl
@[simp] theorem withFetchWord_rf (s : State) (nbits w : Nat) : (s.withFetchWord nbits w).rf = s.rf := rfl
@[simp] theorem withFetchWord_rs (s : State) (nbits w : Nat) : (s.withFetchWord nbits w).rs = s.rs := rfl
@[simp] theorem withFetchWord_lsq (s : State) (nbits w : Nat) : (s.withFetchWord nbits w).lsq = s.lsq := rfl
@[simp] theorem withFetchWord_alu (s : State) (nbits w : Nat) : (s.withFetchWord nbits w).alu = s.alu := rfl
@[simp] theorem withFetchWord_drv (s : State) (nbits w : Nat) : (s.withFetchWord nbits w).drv = s.drv := rfl
@[simp] theorem withFetchWord_guard (s : State) (nbits w : Nat) : (s.withFetchWord nbits w).guard = s.guard := rfl
@[simp] theorem withFetchWord_mem_state (s : State) (nbits w : Nat) :
    (s.withFetchWord nbits w).mem.state = s.mem.state := rfl
@[simp] theorem withFetchWord_mem_pending (s : State) (nbits w : Nat) :
    (s.withFetchWord nbits w).mem.pending = s.mem.pending := rfl
@[simp] theorem withFetchWord_mem_out (s : State) (nbits w : Nat) :
    (s.withFetchWord nbits w).mem.out = s.mem.out := rfl
@[simp] theorem withFetchWord_mem_playback (s : State) (nbits w : Nat) :
    (s.withFetchWord nbits w).mem.playback = s.mem.playback := rfl
@[simp] theorem withFetchWord_mem_wcount (s : State) (nbits w : Nat) :
    (s.withFetchWord nbits w).mem.wcount = s.mem.wcount := rfl
@[simp] theorem withFetchWord_mem_bytes (s : State) (nbits w : Nat) :
    (s.withFetchWord nbits w).mem.bytes =
      s.mem.bytes.store .word s.csu.specPc (BitVec.ofNat 32 (w % 2 ^ nbits)) := rfl

end Sys2Proof.Machine
end

