-- ==== Sys2Proof/Laws/Tick.lean ====
section
/-! SUPPORT. The tick, the step and exec: each said once, so that later proofs cite these and unfold none of them. -/

namespace Sys2Proof.Machine

/-! ### Faults (R192) -/

theorem lowestFault_eq_none {l : List HostFault} : lowestFault l = none ↔ l = [] := by
  cases l with
  | nil => simp [lowestFault]
  | cons k l =>
    simp only [lowestFault]
    constructor
    · intro h
      split at h
      · exact absurd h (by simp)
      · split at h <;> exact absurd h (by simp)
    · intro h
      exact absurd h (by simp)

/-- R192: the fault reported is one that was raised. -/
theorem lowestFault_mem {l : List HostFault} {k : HostFault} (h : lowestFault l = some k) : k ∈ l := by
  induction l generalizing k with
  | nil => exact absurd h (by simp [lowestFault])
  | cons x l ih =>
    simp only [lowestFault] at h
    split at h
    · simp_all
    · split at h
      · cases h
        exact List.mem_cons_of_mem _ (ih ‹_›)
      · simp_all

/-- R192: no fault that was raised has a lower code than the one reported. -/
theorem lowestFault_le {l : List HostFault} {k : HostFault} (h : lowestFault l = some k) :
    ∀ j ∈ l, k.code ≤ j.code := by
  induction l generalizing k with
  | nil => simp
  | cons x l ih =>
    intro j hj
    simp only [lowestFault] at h
    split at h
    · rename_i hn
      rw [lowestFault_eq_none] at hn
      simp_all
    · rename_i m hm
      split at h
      · cases h
        rcases List.mem_cons.1 hj with rfl | hj
        · omega
        · exact ih hm j hj
      · cases h
        rcases List.mem_cons.1 hj with rfl | hj
        · exact le_refl _
        · have := ih hm j hj
          omega

/-! ### The tick (R79, R83) -/

/-- Everything a tick's next state can be. -/
theorem tick_next_iff {cfg : Config} {f : Fetched} {s t : State} :
    tick cfg f s = .next t ↔
      refusedFetch f s = none ∧ tickFaults cfg f s = [] ∧ t = afterSync cfg (unitsNext cfg f s) := by
  unfold tick
  cases hr : refusedFetch f s with
  | some pc => simp
  | none =>
    cases hf : lowestFault (tickFaults cfg f s) with
    | some k =>
      have : tickFaults cfg f s ≠ [] := by
        intro h
        rw [lowestFault_eq_none.2 h] at hf
        exact absurd hf (by simp)
      simp [this]
    | none => simp [lowestFault_eq_none.1 hf, eq_comm]

theorem tick_fault_iff {cfg : Config} {f : Fetched} {s : State} {e : Fault} :
    tick cfg f s = .fault e ↔
      refusedFetch f s = none ∧ ∃ k, lowestFault (tickFaults cfg f s) = some k ∧ e = .host k := by
  unfold tick
  cases hr : refusedFetch f s with
  | some pc => simp
  | none =>
    cases hf : lowestFault (tickFaults cfg f s) with
    | some k => simp [eq_comm]
    | none => simp

theorem tick_refused_iff {cfg : Config} {f : Fetched} {s : State} {r : Refusal} :
    tick cfg f s = .refused r ↔ ∃ pc, refusedFetch f s = some pc ∧ r = .storedCodeFetched pc := by
  unfold tick
  cases hr : refusedFetch f s with
  | some pc => simp [eq_comm]
  | none =>
    cases hf : lowestFault (tickFaults cfg f s) with
    | some k => simp
    | none => simp

/-! ### exec and step -/

/-- Every arm of exec is the tick of its own issue record. -/
theorem exec_eq (i : Instr) (s : State) : exec i s = issueTick (issueReqOf i) s := by
  cases i <;> rfl

theorem exec_eq_tick (i : Instr) (s : State) : exec i s = tick Config.core (.known (issueReqOf i)) s :=
  exec_eq i s

theorem exec_next_iff {i : Instr} {s t : State} :
    exec i s = .next t ↔
      refusedFetch (.known (issueReqOf i)) s = none ∧ tickFaults Config.core (.known (issueReqOf i)) s = [] ∧
        t = afterSync Config.core (unitsNext Config.core (.known (issueReqOf i)) s) := by
  rw [exec_eq_tick, tick_next_iff]

/-- The step of a running machine whose next word is an instruction. -/
theorem step_known {s : State} {i : Instr} (hr : s.drv.status = .running)
    (hd : decodeWord Config.core (fetchWord s) = .ok i) : step s = exec i s := by
  simp [step, hr, hd]

/-- The step of a running machine whose next word is Unknown. -/
theorem step_unknown {s : State} {e : DecodeReject} (hr : s.drv.status = .running)
    (hd : decodeWord Config.core (fetchWord s) = .error e) :
    step s = tick Config.core (.unknown (fetchWord s)) s := by
  simp [step, hr, hd, unknownTick]

/-- The step of a run that has ended. -/
theorem step_ended {s : State} (hr : s.drv.status ≠ .running) : step s = .fault (.runEnded s.drv.status) := by
  unfold step
  split <;> simp_all [endedRun]

/-- A step with a next state is a tick of a running machine, with an instruction or an Unknown word. -/
theorem step_cases {s t : State} (h : step s = .next t) :
    s.drv.status = .running ∧ ∃ f : Fetched,
      ((∃ i, decodeWord Config.core (fetchWord s) = .ok i ∧ f = .known (issueReqOf i)) ∨
        (∃ e, decodeWord Config.core (fetchWord s) = .error e ∧ f = .unknown (fetchWord s))) ∧
      refusedFetch f s = none ∧ tickFaults Config.core f s = [] ∧
      t = afterSync Config.core (unitsNext Config.core f s) := by
  by_cases hr : s.drv.status = .running
  · refine ⟨hr, ?_⟩
    cases hd : decodeWord Config.core (fetchWord s) with
    | ok i =>
      rw [step_known hr hd, exec_next_iff] at h
      exact ⟨_, .inl ⟨i, rfl, rfl⟩, h⟩
    | error e =>
      rw [step_unknown hr hd, tick_next_iff] at h
      exact ⟨_, .inr ⟨e, rfl, rfl⟩, h⟩
  · rw [step_ended hr] at h
    exact absurd h (by simp)

/-! ### The unit faults of a tick without faults -/

theorem tickFaults_nil {cfg : Config} {f : Fetched} {s : State} :
    tickFaults cfg f s = [] ↔
      csuFaults cfg f s = [] ∧ rsFaults s = [] ∧ lsqFaults cfg s = [] ∧ aluFaults s = [] ∧ memFaults s = [] := by
  simp [tickFaults]

/-! ### The first index of a kind -/

theorem firstIdx_spec {n : Nat} {p : Fin n → Bool} {i : Fin n} (h : firstIdx p = some i) :
    p i = true ∧ ∀ j : Fin n, j < i → p j = false := by
  unfold firstIdx at h
  rw [List.find?_eq_some_iff_getElem] at h
  obtain ⟨hp, k, hk, hi, hlt⟩ := h
  refine ⟨hp, fun j hj => ?_⟩
  simp only [List.getElem_finRange] at hi
  have hjk : j.val < k := by
    rw [← hi] at hj
    simpa [Fin.lt_def] using hj
  have := hlt j.val hjk
  simpa [List.getElem_finRange] using this

theorem firstIdx_eq_none {n : Nat} {p : Fin n → Bool} : firstIdx p = none ↔ ∀ i, p i = false := by
  simp [firstIdx]

end Sys2Proof.Machine
end

