-- ==== Sys2Proof/Laws/Units.lean ====
section
/-! SUPPORT. What a tick without faults says of the state it started from, unit by unit, and the ROB's pointer
arithmetic: the facts that a next state of `exec` or `step` brings with it. -/

namespace Sys2Proof.Machine

/-! ### The ROB pointers (R24) -/

theorem pointersOk_iff (c : Csu) :
    c.pointersOk = true ↔
      c.robCount ≤ robSize ∧ c.robTail.val = (c.robHead.val + c.robCount) % robSize ∧
        ∀ i : RobIdx, (c.rob[i]).state ≠ .empty ↔ c.live i = true := by
  simp only [Csu.pointersOk, Bool.and_eq_true, decide_eq_true_eq, List.all_eq_true, and_assoc]
  refine and_congr_right fun _ => and_congr_right fun _ => ?_
  refine ⟨fun h i => ?_, fun h i _ => ?_⟩
  · have := h i (List.mem_finRange i)
    rw [beq_iff_eq] at this
    rw [← this]
    simp
  · rw [beq_iff_eq, Bool.eq_iff_iff, ← h i]
    simp

/-- With room in the ROB its tail entry is Empty. -/
theorem tail_empty {c : Csu} (hp : c.pointersOk = true) (hc : c.robCount < robSize) :
    (c.rob[c.robTail]).state = .empty := by
  obtain ⟨-, ht, hl⟩ := (pointersOk_iff c).1 hp
  by_contra h
  have := (hl c.robTail).1 h
  have h1 := c.robHead.isLt
  simp only [Csu.live, decide_eq_true_eq, robSize] at this ht hc h1
  omega

theorem head_ne_tail {c : Csu} (hp : c.pointersOk = true) (h0 : 0 < c.robCount) (hc : c.robCount < robSize) :
    c.robHead ≠ c.robTail := by
  obtain ⟨-, ht, -⟩ := (pointersOk_iff c).1 hp
  intro h
  rw [← h] at ht
  have h1 := c.robHead.isLt
  simp only [robSize] at ht hc h1
  omega

/-! ### Commit and issue -/

theorem commits_iff (c : Csu) : c.commits = true ↔ 0 < c.robCount ∧ (c.rob[c.robHead]).state = .readyToCommit := by
  simp [Csu.commits, Csu.headEntry]

/-- R103 to R106: what an issue says of the state. -/
theorem issuing_some {cfg : Config} {s : State} {f : Fetched} {r : IssueReq} (h : issuing cfg s f = some r) :
    f = .known r ∧ s.csu.attempts = true ∧ s.csu.robCount < robSize ∧
      acceptPending s r.unit + 1 ≤ unitFree cfg s r.unit := by
  cases f with
  | unknown w => exact absurd h (by simp [issuing])
  | known q =>
    simp only [issuing] at h
    split at h
    · next hc =>
      cases h
      simp only [canIssue, Bool.and_eq_true, decide_eq_true_eq] at hc
      exact ⟨rfl, hc.1, hc.2.1, hc.2.2⟩
    · exact absurd h (by simp)

theorem issuing_known {cfg : Config} {s : State} {r : IssueReq} :
    issuing cfg s (.known r) = if s.csu.attempts = true ∧ canIssue cfg s r.unit = true then some r else none := by
  simp [issuing]

@[simp] theorem issuing_unknown (cfg : Config) (s : State) (w : Word) : issuing cfg s (.unknown w) = none := rfl

theorem attempts_iff (c : Csu) :
    c.attempts = true ↔ c.flushReq = false ∧ c.flushNow = false ∧ c.jalrWait = false := by
  simp [Csu.attempts, and_assoc]

/-! ### The unit steps' faults, none raised -/

section NoFault

variable {cfg : Config} {f : Fetched} {s : State}

theorem noFault_pointers (h : tickFaults cfg f s = []) : s.csu.pointersOk = true := by
  have := (tickFaults_nil.1 h).1
  simp only [csuFaults, List.append_eq_nil_iff] at this
  by_contra hp
  simp [hp] at this

theorem noFault_aluOut (h : tickFaults cfg f s = []) (hf : s.csu.flushReq = false) {o : AluOut}
    (ho : s.alu.out = some o) : (s.csu.rob[o.rob]).state = .executing := by
  have := (tickFaults_nil.1 h).1
  simp only [csuFaults, hf, Bool.false_eq_true, if_false, List.append_eq_nil_iff, ho, completionFault] at this
  by_contra hp
  have h2 := this.2.1.1.2
  rw [if_neg hp] at h2
  exact absurd h2 (by simp)

theorem noFault_memOut (h : tickFaults cfg f s = []) (hf : s.csu.flushReq = false) {o : MemOut}
    (ho : s.mem.out = some o) : (s.csu.rob[o.rob]).state = .executing := by
  have := (tickFaults_nil.1 h).1
  simp only [csuFaults, hf, Bool.false_eq_true, if_false, List.append_eq_nil_iff, ho, completionFault] at this
  by_contra hp
  have h2 := this.2.1.2
  rw [if_neg hp] at h2
  exact absurd h2 (by simp)

theorem noFault_csuDoubleWrites (h : tickFaults cfg f s = []) (hf : s.csu.flushReq = false) :
    csuDoubleWrites cfg s f = [] := by
  have := (tickFaults_nil.1 h).1
  simp only [csuFaults, hf, Bool.false_eq_true, if_false, List.append_eq_nil_iff] at this
  exact this.2.2

theorem noFault_outs_differ (h : tickFaults cfg f s = []) (hf : s.csu.flushReq = false) {a : AluOut} {m : MemOut}
    (ha : s.alu.out = some a) (hm : s.mem.out = some m) : a.rob ≠ m.rob := by
  have := noFault_csuDoubleWrites h hf
  simp only [csuDoubleWrites, List.append_eq_nil_iff, ha, hm] at this
  intro he
  have h2 := this.1.1
  rw [if_pos he] at h2
  exact absurd h2 (by simp)

theorem noFault_tail (h : tickFaults cfg f s = []) (hf : s.csu.flushReq = false) {r : IssueReq}
    (hi : issuing cfg s f = some r) : tailStagedTwice s = false := by
  have := noFault_csuDoubleWrites h hf
  simp only [csuDoubleWrites, List.append_eq_nil_iff, hi, Option.isSome_some, Bool.true_and] at this
  by_contra ht
  simp [ht] at this

theorem noFault_jalr (h : tickFaults cfg f s = []) (hf : s.csu.flushReq = false) {r : IssueReq}
    (hi : issuing cfg s f = some r) : jalrCompletes s = none := by
  have := noFault_csuDoubleWrites h hf
  simp only [csuDoubleWrites, List.append_eq_nil_iff, hi, Option.isSome_some, Bool.true_and] at this
  by_contra ht
  have h2 := this.2
  rw [if_pos (by simpa [Option.isSome_iff_ne_none] using ht)] at h2
  exact absurd h2 (by simp)

/-- R81, R106: with room in the ROB no other part of the step stages the tail entry, whatever was fetched. -/
theorem noFault_tail_of_room (h : tickFaults cfg f s = []) (hf : s.csu.flushReq = false)
    (hc : s.csu.robCount < robSize) : tailStagedTwice s = false := by
  have hp := noFault_pointers h
  have he : (s.csu.rob[(s.csu.robTail : Nat)]).state = .empty := tail_empty hp hc
  simp only [tailStagedTwice, Bool.or_eq_false_iff, Bool.and_eq_false_iff]
  refine ⟨⟨⟨?_, ?_⟩, ?_⟩, by simp [he]⟩
  · by_cases h0 : 0 < s.csu.robCount
    · exact .inr (by simpa using head_ne_tail hp h0 hc)
    · exact .inl (by simp [Csu.commits, h0])
  · unfold aluCompletes
    split
    · next o ho =>
      split
      · next e => exact absurd (noFault_aluOut h hf ho) (by simp [e, he])
      · rfl
    · rfl
  · unfold memCompletes
    split
    · next o ho =>
      split
      · next e => exact absurd (noFault_memOut h hf ho) (by simp [e, he])
      · rfl
    · rfl

theorem noFault_rsAccept (h : tickFaults cfg f s = []) (hf : s.csu.flushReq = false) {u : IssueLatch}
    (hu : rsAccepting s = some u) : ∃ j, rsFirstEmpty s.rs = some j := by
  have := (tickFaults_nil.1 h).2.1
  simp only [rsFaults, hf, Bool.false_eq_true, if_false, List.append_eq_nil_iff, hu] at this
  cases he : rsFirstEmpty s.rs with
  | some j => exact ⟨j, rfl⟩
  | none => simp [he] at this

theorem noFault_rsSelect (h : tickFaults cfg f s = []) (hf : s.csu.flushReq = false) {i : RsIdx}
    (hi : rsSelect s.rs = some i) : (s.rs.slot[i]).op1.resolved = true ∧ (s.rs.slot[i]).op2.resolved = true := by
  have := (tickFaults_nil.1 h).2.1
  simp only [rsFaults, hf, Bool.false_eq_true, if_false, List.append_eq_nil_iff, hi] at this
  by_contra hr
  have h2 := this.2
  rw [if_neg (by simpa using hr)] at h2
  exact absurd h2 (by simp)

theorem noFault_lsqAccept (h : tickFaults cfg f s = []) (hf : s.csu.flushReq = false) {u : IssueLatch}
    (hu : lsqAccepting s = some u) : s.lsq.count ≠ cfg.lsqSize ∧ lsqTailStagedTwice s = false := by
  have := (tickFaults_nil.1 h).2.2.1
  simp only [lsqFaults, hf, Bool.false_eq_true, if_false, List.append_eq_nil_iff, hu] at this
  refine ⟨fun he => ?_, ?_⟩
  · simp [he] at this
  · by_contra ht
    simp [ht] at this

theorem noFault_lsqDispatch (h : tickFaults cfg f s = []) (hf : s.csu.flushReq = false)
    (hd : lsqDispatches s = true) :
    (lsqHead s.lsq).op1.resolved = true ∧ (lsqHead s.lsq).op2.resolved = true := by
  have := (tickFaults_nil.1 h).2.2.1
  simp only [lsqFaults, hf, Bool.false_eq_true, if_false, List.append_eq_nil_iff, hd, if_true] at this
  by_contra hr
  have h2 := this.2
  rw [if_neg (by simpa using hr)] at h2
  exact absurd h2 (by simp)

theorem noFault_aluResult (h : tickFaults cfg f s = []) (hf : s.csu.flushReq = false) {d : DispatchLatch}
    (hd : s.rs.dispatch = some d) : ∃ r, aluResult d.cls d.a d.b d.imm d.shamt d.pc = some r := by
  have := (tickFaults_nil.1 h).2.2.2.1
  simp only [aluFaults, hf, Bool.false_eq_true, if_false, hd] at this
  cases hr : aluResult d.cls d.a d.b d.imm d.shamt d.pc with
  | some r => exact ⟨r, rfl⟩
  | none => simp [hr] at this

theorem noFault_memFree (h : tickFaults cfg f s = []) (hf : s.csu.flushReq = false) (hm : s.mem.state = .free)
    {r : MemRequest} (hr : s.lsq.req = some r) : requestValid r.type = true := by
  have := (tickFaults_nil.1 h).2.2.2.2
  simp only [memFaults, hf, Bool.false_eq_true, if_false, List.append_eq_nil_iff, hm, hr] at this
  by_contra hv
  simp [hv] at this

theorem noFault_memBusy (h : tickFaults cfg f s = []) (hf : s.csu.flushReq = false) (hm : s.mem.state ≠ .free) :
    s.lsq.req = none := by
  have := (tickFaults_nil.1 h).2.2.2.2
  simp only [memFaults, hf, Bool.false_eq_true, if_false, List.append_eq_nil_iff] at this
  cases hr : s.lsq.req with
  | none => rfl
  | some r => cases hs : s.mem.state <;> simp_all

theorem noFault_busy2 (h : tickFaults cfg f s = []) (hf : s.csu.flushReq = false) (hm : s.mem.state = .busy2) :
    ∃ p, s.mem.pending = some p ∧ requestValid p.type = true := by
  have := (tickFaults_nil.1 h).2.2.2.2
  simp only [memFaults, hf, Bool.false_eq_true, if_false, List.append_eq_nil_iff, hm] at this
  cases hp : s.mem.pending with
  | none => simp [hp] at this
  | some p =>
    refine ⟨p, rfl, ?_⟩
    by_contra hv
    simp [hp, hv] at this

theorem noFault_playback (h : tickFaults cfg f s = []) (hf : s.csu.flushReq = false) {p : MemRequest} {w : Width}
    (hw : memWriting s = some (p, w)) : commitsSlot s p.rob = false := by
  have := (tickFaults_nil.1 h).2.2.2.2
  simp only [memFaults, hf, Bool.false_eq_true, if_false, List.append_eq_nil_iff, hw] at this
  by_contra hc
  simp [hc] at this

end NoFault

/-! ### The parameters at the values of this hardware (R7) -/

/-- R128: at LSQ_SIZE = 32 the next index is the ring's own. -/
@[simp] theorem lsqAfter_core (i : LsqIdx) : lsqAfter Config.core i = i + 1 := by
  revert i
  decide

/-- R38: a memory of all 2^32 bytes has every address. -/
theorem inMemory_of_full {cfg : Config} (hm : 2 ^ 32 ≤ cfg.memBytes) (hw : 32 ≤ cfg.addrWidth) (a : Addr) :
    inMemory cfg a = true := by
  have h := a.isLt
  have hp : 2 ^ 32 ≤ 2 ^ cfg.addrWidth := Nat.pow_le_pow_right (by omega) hw
  simp only [inMemory, Bool.and_eq_true, decide_eq_true_eq]
  omega

theorem outsideMemory_of_full {cfg : Config} (hm : 2 ^ 32 ≤ cfg.memBytes) (hw : 32 ≤ cfg.addrWidth) (s : State) :
    outsideMemory cfg s = none := by
  simp [outsideMemory, inMemory_of_full hm hw]

/-- The step of a running machine with parameters whose memory is the whole address space. -/
theorem stepWith_of_full {cfg : Config} (hm : 2 ^ 32 ≤ cfg.memBytes) (hw : 32 ≤ cfg.addrWidth) {s : State}
    (hr : s.drv.status = .running) : stepWith cfg s = tick cfg (fetched cfg s) s := by
  simp [stepWith, hr, outsideMemory_of_full hm hw]

/-! ### Requests (R48) -/

theorem requestValid_iff (t : BitVec 4) :
    requestValid t = true ↔
      ∃ w, requestWidth t = some w ∧ (requestDirection t = .read ∨ requestDirection t = .write) := by
  revert t
  decide

/-- R127: what the LSQ forms for a class of its own is valid. -/
theorem requestType_valid {c : OpClass} {w : Width} (h : accessWidth c = some w) :
    requestValid (requestType c) = true ∧ requestWidth (requestType c) = some w ∧
      requestDirection (requestType c) = (if isStore c then .write else .read) := by
  cases c <;> simp only [accessWidth, reduceCtorEq, Option.some.injEq] at h <;> subst h <;> decide

theorem accessWidth_isSome (c : OpClass) : (accessWidth c).isSome = true ↔ c.unit = .lsq := by
  cases c <;> decide

theorem aluResult_isSome (c : OpClass) (a b imm : Word) (sh : BitVec 5) (pc : Addr) :
    (aluResult c a b imm sh pc).isSome = true ↔ c.unit = .rs := by
  cases c <;> simp [aluResult, OpClass.unit, OpClass.row]

end Sys2Proof.Machine
end

