-- ==== Sys2Proof/Tests/Slice0.lean ====
section
/-! SUPPORT. The model's own tests: ill-formed terms, the words of the spec, one result per instruction from the spec's
examples and vectors (spec/95_test_vectors.md), and for each statement with hypotheses a state that meets them. -/

namespace Sys2Proof.Tests

open Sys2Proof Sys2Proof.Machine

/-! ### Ill-formed terms are refused -/

theorem test_wf_odd_branch : (Instr.beq 1#5 2#5 17#13).wellFormed = false := by decide
theorem test_wf_odd_jal : (Instr.jal 1#5 9#21).wellFormed = false := by decide
theorem test_wf_halt_shaped : (Instr.addi 10#5 10#5 255#12).wellFormed = false := by decide
theorem test_wf_near_halt : (Instr.addi 11#5 10#5 255#12).wellFormed = true := by decide

/-! ### A word for every constructor, its bits written field by field from R64 and R69 -/

/-- The instruction decode reads from a word. -/
def decoded (w : Word) : Option Instr :=
  match decodeWord Config.core w with
  | .ok i => some i
  | .error _ => none

/-- R137: 0x123452B7 -/
theorem test_decode_lui : decoded 0b00010010001101000101_00101_0110111#32 = some (.lui 5#5 0x12345#20) := by decide
/-- R138: 0x00001297 -/
theorem test_decode_auipc : decoded 0b00000000000000000001_00101_0010111#32 = some (.auipc 5#5 1#20) := by decide
/-- R162: 0x008000EF -/
theorem test_decode_jal : decoded 0b0_0000000100_0_00000000_00001_1101111#32 = some (.jal 1#5 8#21) := by decide
/-- R162: 0xFFDFF06F -/
theorem test_decode_jal_backward : decoded 0b1_1111111110_1_11111111_00000_1101111#32 = some (.jal 0#5 (-4#21)) := by decide
/-- R163: 0x003280E7 -/
theorem test_decode_jalr : decoded 0b000000000011_00101_000_00001_1100111#32 = some (.jalr 1#5 5#5 3#12) := by decide
/-- R165: 0x00208863 -/
theorem test_decode_beq : decoded 0b0_000000_00010_00001_000_1000_0_1100011#32 = some (.beq 1#5 2#5 16#13) := by decide
/-- spec/95 2.2: 0xFC2090E3 -/
theorem test_decode_bne : decoded 0b1_111110_00010_00001_001_0000_1_1100011#32 = some (.bne 1#5 2#5 (-64#13)) := by decide
/-- R167: 0xFE20CCE3 -/
theorem test_decode_blt : decoded 0b1_111111_00010_00001_100_1100_1_1100011#32 = some (.blt 1#5 2#5 (-8#13)) := by decide
/-- R168: 0xFE20DCE3 -/
theorem test_decode_bge : decoded 0b1_111111_00010_00001_101_1100_1_1100011#32 = some (.bge 1#5 2#5 (-8#13)) := by decide
/-- R169: 0x0020E663 -/
theorem test_decode_bltu : decoded 0b0_000000_00010_00001_110_0110_0_1100011#32 = some (.bltu 1#5 2#5 12#13) := by decide
/-- R170: 0x0020F663 -/
theorem test_decode_bgeu : decoded 0b0_000000_00010_00001_111_0110_0_1100011#32 = some (.bgeu 1#5 2#5 12#13) := by decide
/-- R174: 0x00010083 -/
theorem test_decode_lb : decoded 0b000000000000_00010_000_00001_0000011#32 = some (.lb 1#5 2#5 0#12) := by decide
/-- R175: 0x00211083 -/
theorem test_decode_lh : decoded 0b000000000010_00010_001_00001_0000011#32 = some (.lh 1#5 2#5 2#12) := by decide
/-- R176: 0x00012083 -/
theorem test_decode_lw : decoded 0b000000000000_00010_010_00001_0000011#32 = some (.lw 1#5 2#5 0#12) := by decide
/-- R177: 0x00014083 -/
theorem test_decode_lbu : decoded 0b000000000000_00010_100_00001_0000011#32 = some (.lbu 1#5 2#5 0#12) := by decide
/-- R178: 0x00215083 -/
theorem test_decode_lhu : decoded 0b000000000010_00010_101_00001_0000011#32 = some (.lhu 1#5 2#5 2#12) := by decide
/-- R179: 0x001100A3 -/
theorem test_decode_sb : decoded 0b0000000_00001_00010_000_00001_0100011#32 = some (.sb 2#5 1#5 1#12) := by decide
/-- R180: 0x00111123 -/
theorem test_decode_sh : decoded 0b0000000_00001_00010_001_00010_0100011#32 = some (.sh 2#5 1#5 2#12) := by decide
/-- R181: 0x00112023 -/
theorem test_decode_sw : decoded 0b0000000_00001_00010_010_00000_0100011#32 = some (.sw 2#5 1#5 0#12) := by decide
/-- R139: 0xFFF00093 -/
theorem test_decode_addi : decoded 0b111111111111_00000_000_00001_0010011#32 = some (.addi 1#5 0#5 (-1#12)) := by decide
/-- R140: 0xFFF12093 -/
theorem test_decode_slti : decoded 0b111111111111_00010_010_00001_0010011#32 = some (.slti 1#5 2#5 (-1#12)) := by decide
/-- R141: 0xFFF13093 -/
theorem test_decode_sltiu : decoded 0b111111111111_00010_011_00001_0010011#32 = some (.sltiu 1#5 2#5 (-1#12)) := by decide
/-- R142: 0xFFF14093 -/
theorem test_decode_xori : decoded 0b111111111111_00010_100_00001_0010011#32 = some (.xori 1#5 2#5 (-1#12)) := by decide
/-- R143: 0x0F016093 -/
theorem test_decode_ori : decoded 0b000011110000_00010_110_00001_0010011#32 = some (.ori 1#5 2#5 0x0F0#12) := by decide
/-- R144: 0x7FF17093 -/
theorem test_decode_andi : decoded 0b011111111111_00010_111_00001_0010011#32 = some (.andi 1#5 2#5 0x7FF#12) := by decide
/-- R145: 0x01F11093 -/
theorem test_decode_slli : decoded 0b0000000_11111_00010_001_00001_0010011#32 = some (.slli 1#5 2#5 31#5) := by decide
/-- R146: 0x00415093 -/
theorem test_decode_srli : decoded 0b0000000_00100_00010_101_00001_0010011#32 = some (.srli 1#5 2#5 4#5) := by decide
/-- R147: 0x40415093 -/
theorem test_decode_srai : decoded 0b0100000_00100_00010_101_00001_0010011#32 = some (.srai 1#5 2#5 4#5) := by decide
/-- R148: 0x002081B3 -/
theorem test_decode_add : decoded 0b0000000_00010_00001_000_00011_0110011#32 = some (.add 3#5 1#5 2#5) := by decide
/-- R149: 0x402081B3 -/
theorem test_decode_sub : decoded 0b0100000_00010_00001_000_00011_0110011#32 = some (.sub 3#5 1#5 2#5) := by decide
/-- R150: 0x002091B3 -/
theorem test_decode_sll : decoded 0b0000000_00010_00001_001_00011_0110011#32 = some (.sll 3#5 1#5 2#5) := by decide
/-- R151: 0x0020A1B3 -/
theorem test_decode_slt : decoded 0b0000000_00010_00001_010_00011_0110011#32 = some (.slt 3#5 1#5 2#5) := by decide
/-- R152: 0x0020B1B3 -/
theorem test_decode_sltu : decoded 0b0000000_00010_00001_011_00011_0110011#32 = some (.sltu 3#5 1#5 2#5) := by decide
/-- R153: 0x0020C1B3 -/
theorem test_decode_xor : decoded 0b0000000_00010_00001_100_00011_0110011#32 = some (.xor 3#5 1#5 2#5) := by decide
/-- R154: 0x0020D1B3 -/
theorem test_decode_srl : decoded 0b0000000_00010_00001_101_00011_0110011#32 = some (.srl 3#5 1#5 2#5) := by decide
/-- R155: 0x4020D1B3 -/
theorem test_decode_sra : decoded 0b0100000_00010_00001_101_00011_0110011#32 = some (.sra 3#5 1#5 2#5) := by decide
/-- R156: 0x0020E1B3 -/
theorem test_decode_or : decoded 0b0000000_00010_00001_110_00011_0110011#32 = some (.or 3#5 1#5 2#5) := by decide
/-- R157: 0x0020F1B3 -/
theorem test_decode_and : decoded 0b0000000_00010_00001_111_00011_0110011#32 = some (.and 3#5 1#5 2#5) := by decide
/-- R182: 0x0FF50513 -/
theorem test_decode_halt : decoded 0b000011111111_01010_000_01010_0010011#32 = some .halt := by decide

/-! ### Words that decode refuses, and what STRICT_DECODE changes (spec/95 2.4) -/

def looseDecoded (w : Word) : Option Instr :=
  match decodeWord { Config.core with strictDecode := false } w with
  | .ok i => some i
  | .error _ => none

theorem test_unknown_words :
    [0x00000000#32, 0xFFFFFFFF#32, 0x00000073#32, 0x00100073#32, 0x0000000F#32, 0x30200073#32, 0x602081B3#32,
      0x4020C1B3#32, 0x02011093#32, 0x00003083#32, 0x00006083#32, 0x00003023#32, 0x00002063#32, 0x000010E7#32,
      0x00500092#32].map decoded = List.replicate 15 none := by decide

theorem test_loose_words :
    [0x022081B3#32, 0x602081B3#32, 0x4020C1B3#32, 0x02011093#32, 0x40011093#32].map looseDecoded =
      [some (.add 3#5 1#5 2#5), some (.sub 3#5 1#5 2#5), none, some (.slli 1#5 2#5 0#5), none] := by decide

theorem test_halt_neighbours :
    [0x0FF00513#32, 0x0FF50593#32].map decoded =
      [some (.addi 10#5 0#5 255#12), some (.addi 11#5 10#5 255#12)] := by decide

theorem test_table_word : decodeTableWord 32 0x00000033 = some (.add 0#5 0#5 0#5) := by decide

theorem test_text : (Instr.lw 4#5 0#5 0#12).text = "lw x4,0(x0)" := by decide

theorem test_li : (Pseudo.li 5#5 0x12345FFF#32).expand = [.lui 5#5 0x12346#20, .addi 5#5 5#5 0xFFF#12] := by decide

/-! ### One result per instruction of the ALU, by one tick of the ALU -/

/-- One tick of the ALU with the record of `i` in the dispatch latch: the value and the next PC on its output latch. -/
def aluTick (i : Instr) (a b : Word) (pc : Addr) : Option (Word × Addr) :=
  let s := State.reset
  let d : DispatchLatch :=
    { cls := (issueReqOf i).cls, a := a, b := b, imm := (issueReqOf i).imm, shamt := (issueReqOf i).shamt, pc := pc, rob := 0 }
  match (aluNext { s with rs := { s.rs with dispatch := some d } }).out with
  | some o => some (o.value, o.nextPc)
  | none => none

theorem test_result_lui : aluTick (.lui 5#5 0xFFFFF#20) 0x00000000#32 0x00000000#32 0x100#32 = some (0xFFFFF000#32, 0x104#32) := by decide
theorem test_result_auipc : aluTick (.auipc 5#5 1#20) 0x00000000#32 0x00000000#32 0xFFFFF000#32 = some (0x00000000#32, 0xFFFFF004#32) := by decide
theorem test_result_addi : aluTick (.addi 1#5 2#5 (-2048#12)) 0x00000005#32 0x00000000#32 0x100#32 = some (0xFFFFF805#32, 0x104#32) := by decide
theorem test_result_slti : aluTick (.slti 1#5 2#5 (-2048#12)) 0x80000000#32 0x00000000#32 0x100#32 = some (0x00000001#32, 0x104#32) := by decide
theorem test_result_sltiu : aluTick (.sltiu 1#5 2#5 (-1#12)) 0x00000005#32 0x00000000#32 0x100#32 = some (0x00000001#32, 0x104#32) := by decide
theorem test_result_xori : aluTick (.xori 1#5 2#5 2047#12) 0x12345678#32 0x00000000#32 0x100#32 = some (0x12345187#32, 0x104#32) := by decide
theorem test_result_ori : aluTick (.ori 1#5 2#5 (-2048#12)) 0x00000000#32 0x00000000#32 0x100#32 = some (0xFFFFF800#32, 0x104#32) := by decide
theorem test_result_andi : aluTick (.andi 1#5 2#5 (-2048#12)) 0xFFFFFFFF#32 0x00000000#32 0x100#32 = some (0xFFFFF800#32, 0x104#32) := by decide
theorem test_result_slli : aluTick (.slli 1#5 2#5 31#5) 0x00000003#32 0x00000000#32 0x100#32 = some (0x80000000#32, 0x104#32) := by decide
theorem test_result_srli : aluTick (.srli 1#5 2#5 4#5) 0x80000000#32 0x00000000#32 0x100#32 = some (0x08000000#32, 0x104#32) := by decide
theorem test_result_srai : aluTick (.srai 1#5 2#5 8#5) 0xFFFFFF00#32 0x00000000#32 0x100#32 = some (0xFFFFFFFF#32, 0x104#32) := by decide
theorem test_result_add : aluTick (.add 3#5 1#5 2#5) 0x7FFFFFFF#32 0x00000001#32 0x100#32 = some (0x80000000#32, 0x104#32) := by decide
theorem test_result_sub : aluTick (.sub 3#5 1#5 2#5) 0x00000003#32 0x00000005#32 0x100#32 = some (0xFFFFFFFE#32, 0x104#32) := by decide
theorem test_result_sll : aluTick (.sll 3#5 1#5 2#5) 0x00000003#32 0xFFFFFFE1#32 0x100#32 = some (0x00000006#32, 0x104#32) := by decide
theorem test_result_slt : aluTick (.slt 3#5 1#5 2#5) 0x80000000#32 0x7FFFFFFF#32 0x100#32 = some (0x00000001#32, 0x104#32) := by decide
theorem test_result_sltu : aluTick (.sltu 3#5 1#5 2#5) 0xFFFFFFFF#32 0x00000001#32 0x100#32 = some (0x00000000#32, 0x104#32) := by decide
theorem test_result_xor : aluTick (.xor 3#5 1#5 2#5) 0xFF00FF00#32 0x0FF00FF0#32 0x100#32 = some (0xF0F0F0F0#32, 0x104#32) := by decide
theorem test_result_srl : aluTick (.srl 3#5 1#5 2#5) 0xFFFFFFFF#32 0x0000003F#32 0x100#32 = some (0x00000001#32, 0x104#32) := by decide
theorem test_result_sra : aluTick (.sra 3#5 1#5 2#5) 0x80000000#32 0x00000020#32 0x100#32 = some (0x80000000#32, 0x104#32) := by decide
theorem test_result_or : aluTick (.or 3#5 1#5 2#5) 0x80000000#32 0x00000001#32 0x100#32 = some (0x80000001#32, 0x104#32) := by decide
theorem test_result_and : aluTick (.and 3#5 1#5 2#5) 0x0000F0F0#32 0x0000FF00#32 0x100#32 = some (0x0000F000#32, 0x104#32) := by decide
theorem test_result_jal : aluTick (.jal 1#5 (-1048576#21)) 0x00000000#32 0x00000000#32 0x100#32 = some (0x00000104#32, 0xFFF00100#32) := by decide
theorem test_result_jalr : aluTick (.jalr 1#5 1#5 0#12) 0x00000301#32 0x00000000#32 0x100#32 = some (0x00000104#32, 0x300#32) := by decide
theorem test_result_beq : aluTick (.beq 1#5 2#5 16#13) 0x00000007#32 0x00000008#32 0x40#32 = some (0x00000000#32, 0x44#32) := by decide
theorem test_result_bne : aluTick (.bne 1#5 2#5 (-68#13)) 0x00000001#32 0x00000002#32 0x40#32 = some (0x00000000#32, 0xFFFFFFFC#32) := by decide
theorem test_result_blt : aluTick (.blt 1#5 2#5 (-8#13)) 0xFFFFFFFF#32 0x00000001#32 0x40#32 = some (0x00000000#32, 0x38#32) := by decide
theorem test_result_bge : aluTick (.bge 1#5 2#5 (-8#13)) 0x7FFFFFFF#32 0x80000000#32 0x40#32 = some (0x00000000#32, 0x38#32) := by decide
theorem test_result_bltu : aluTick (.bltu 1#5 2#5 12#13) 0x00000001#32 0xFFFFFFFF#32 0x40#32 = some (0x00000000#32, 0x4C#32) := by decide
theorem test_result_bgeu : aluTick (.bgeu 1#5 2#5 12#13) 0xFFFFFFFF#32 0x00000001#32 0x40#32 = some (0x00000000#32, 0x4C#32) := by decide
theorem test_result_halt : aluTick (.halt) 0x00000000#32 0x00000000#32 0x100#32 = some (0x00000000#32, 0x104#32) := by decide

/-! ### Loads and stores, by one tick of Memory on the start memory of spec/95 2.3 -/

/-- `0x2000: 11 22 33 44`, `0x2004: 80 7F 00 80`, `0xFFFFFFFF: AB`. -/
def startMemory : Memory :=
  loadImage [] [⟨0x2000#32, [0x11#8, 0x22#8, 0x33#8, 0x44#8, 0x80#8, 0x7F#8, 0x00#8, 0x80#8]⟩, ⟨0xFFFFFFFF#32, [0xAB#8]⟩]

/-- One tick of Memory, in Busy_2 with the request the LSQ forms for `i` with these operands. -/
def memTick (i : Instr) (base data : Word) : MemUnit :=
  let s := State.reset
  let e : LsqEntry :=
    { state := .ready, cls := (issueReqOf i).cls, op1 := .val base, op2 := .val data, imm := (issueReqOf i).imm, rob := 3 }
  memNext { s with mem := { s.mem with bytes := startMemory, state := .busy2, pending := some (lsqRequest e), wcount := 5 } }

def memValue (i : Instr) (base : Word) : Option Word := (memTick i base 0#32).out.map MemOut.value

theorem test_result_lb : memValue (.lb 1#5 2#5 4#12) 0x00002000#32 = some 0xFFFFFF80#32 := by decide
theorem test_result_lh : memValue (.lh 1#5 2#5 1#12) 0x00002000#32 = some 0x00003322#32 := by decide
theorem test_result_lw : memValue (.lw 1#5 2#5 2#12) 0x00002000#32 = some 0x7F804433#32 := by decide
theorem test_result_lbu : memValue (.lbu 1#5 2#5 4#12) 0x00002000#32 = some 0x00000080#32 := by decide
theorem test_result_lhu : memValue (.lhu 1#5 2#5 0#12) 0xFFFFFFFF#32 = some 0x000000AB#32 := by decide
theorem test_result_lh_negative : memValue (.lh 1#5 2#5 6#12) 0x00002000#32 = some 0xFFFF8000#32 := by decide
theorem test_result_lw_wrap : memValue (.lw 1#5 2#5 0#12) 0xFFFFFFFE#32 = some 0x0000AB00#32 := by decide
theorem test_result_sb :
    (memTick (.sb 2#5 1#5 1#12) 0x2000#32 0x12345678#32).bytes.readBytes 0x2000#32 4 =
      [0x11#8, 0x78#8, 0x33#8, 0x44#8] := by decide
theorem test_playback_sb :
    (memTick (.sb 2#5 1#5 1#12) 0x2000#32 0x12345678#32).playback[(3 : RobIdx)] =
      some { ts := 5, addr := 0x2001#32, len := .byte, old := [0x22#8] } := by decide
theorem test_result_sh :
    (memTick (.sh 2#5 1#5 3#12) 0x2000#32 0x12345678#32).bytes.readBytes 0x2003#32 2 = [0x78#8, 0x56#8] := by decide
theorem test_result_sw :
    (memTick (.sw 2#5 1#5 0#12) 0xFFFFFFFF#32 0x12345678#32).bytes.readBytes 0xFFFFFFFF#32 4 =
      [0x78#8, 0x56#8, 0x34#8, 0x12#8] := by decide
/-- spec/95 S4: two overlapping stores undone, the later first. -/
theorem test_undo_order :
    (undoAll (Memory.writeBytes [] 0x2000#32 [0xEF#8, 0x99#8, 0xAD#8, 0xDE#8])
      [{ ts := 0, addr := 0x2000#32, len := .word, old := [0x11#8, 0x22#8, 0x33#8, 0x44#8] },
        { ts := 1, addr := 0x2001#32, len := .byte, old := [0xBE#8] }]).readBytes 0x2000#32 4 =
      [0x11#8, 0x22#8, 0x33#8, 0x44#8] := by decide

/-! ### Helpers for the witnesses -/

/-- Why an outcome is a refusal. -/
def refusal : Host.Outcome State Fault Refusal → Option Refusal
  | .refused r => some r
  | .fault _ => none
  | .next _ => none

/-- The state with an instruction's word at its speculated PC. -/
def placed (i : Instr) (s : State) : State := s.withFetchWord 32 (encode i).toNat

def isNext (o : Host.Outcome State Fault Refusal) (p : State → Bool) : Bool :=
  match o with
  | .next t => p t
  | .fault _ => false
  | .refused _ => false

theorem next_of {o : Host.Outcome State Fault Refusal} {p : State → Bool} (h : isNext o p = true) :
    ∃ t, o = .next t ∧ p t = true := by
  cases o with
  | next t => exact ⟨t, rfl, h⟩
  | fault r => exact absurd h (by simp [isNext])
  | refused r => exact absurd h (by simp [isNext])

/-- add x3, x1, x2 -/
def anAdd : Instr := .add 3#5 1#5 2#5

/-- The reset state with a program of that one word. -/
def sAdd : State := State.reset.withFetchWord 32 0x002081B3

/-- A ReadyToCommit entry of an add to x1. -/
def readyEntry : RobEntry :=
  { RobEntry.empty with state := .readyToCommit, cls := .add, hasRd := true, rd := 1#5, value := 7#32, pcReady := true, resolvedPc := 4#32 }

/-- The state with the first `n` ROB entries `e`, from head 0. -/
def withRob (n : Nat) (e : RobEntry) : State :=
  { State.reset with
    csu :=
      { State.reset.csu with
        rob := Vector.ofFn fun i : Fin robSize => if i.val < n then e else RobEntry.empty
        robTail := Fin.ofNat robSize n
        robCount := n } }

/-- The state with one entry, ready to commit. -/
def sReady : State := withRob 1 readyEntry

def withFlush (s : State) : State := { s with csu := { s.csu with flushReq := true } }
def withWait (s : State) : State := { s with csu := { s.csu with jalrWait := true } }
def withAluOut (s : State) (o : AluOut) : State := { s with alu := { out := some o } }
def withMemOut (s : State) (o : MemOut) : State := { s with mem := { s.mem with out := some o } }
def withCommit (s : State) (k : CommitLatch) : State := { s with csu := { s.csu with commit := some k } }
def withIssue (s : State) (u : IssueLatch) : State := { s with csu := { s.csu with issue := some u } }
def withSlots (s : State) (f : RsIdx → RsSlot) : State := { s with rs := { s.rs with slot := Vector.ofFn f } }

/-- The issue latch with an add to x1 whose operands wait for entries 5 and 6. -/
def anIssue : IssueLatch :=
  { unit := .rs, cls := .add, hasRd := true, rd := 1#5, op1 := .tag 5, op2 := .tag 6, imm := 0#32, shamt := 0#5,
    pc := 0#32, specNext := 4#32, rob := 9 }

def aLoadIssue : IssueLatch := { anIssue with unit := .lsq, cls := .lw, op2 := .none }

/-- The commit latch with a write of 7 to x1 by entry 8. -/
def aCommit : CommitLatch := { rob := 8, hasRd := true, rd := 1#5, value := 7#32 }

def readySlot : RsSlot := { RsSlot.empty with state := .ready, cls := .add, op1 := .val 5#32, op2 := .val 7#32 }
def waitingSlot : RsSlot := { RsSlot.empty with state := .awaitingOperands, cls := .add, op1 := .tag 5, op2 := .tag 6 }

/-! ### The invariants hold in the witnesses' states -/

theorem pipelineInv_of_idle {s : State} (hp : s.csu.pointersOk = true) (hi : s.csu.issue = none)
    (hc : s.csu.commit = none) (hs : s.rs = State.reset.rs) (hl : s.lsq = State.reset.lsq) (ha : s.alu.out = none)
    (hm : s.mem.state = .free) (hq : s.mem.pending = none) (ho : s.mem.out = none)
    (hr : ∀ i : RobIdx, (s.csu.rob[i]).state = .empty ∨ (s.csu.rob[i]).state = .readyToCommit) : PipelineInv s where
  pointers := hp
  issueEntry := by simp [hi]
  issuedOnly := by
    intro i h
    rcases hr i with h' | h' <;> rw [h'] at h <;> exact absurd h (by decide)
  aluNodup := by
    have : aluHolds s = [] := by
      unfold aluHolds
      rw [hs, ha]
      decide
    simp [this]
  aluEntries := by
    intro i
    have : aluHolds s = [] := by
      unfold aluHolds
      rw [hs, ha]
      decide
    rw [this]
    rcases hr i with h | h <;> rw [h] <;> simp
  memNodup := by
    have : memHolds s = [] := by
      unfold memHolds
      rw [hl, hq, ho]
      decide
    simp [this]
  memEntries := by
    intro i
    have : memHolds s = [] := by
      unfold memHolds
      rw [hl, hq, ho]
      decide
    rw [this]
    rcases hr i with h | h <;> rw [h] <;> simp
  slotClass := by
    intro j h
    rw [hs] at h
    exact absurd (by revert j; decide : (State.reset.rs.slot[j]).state = .empty) h
  dispatchClass := by
    rw [hs]
    intro d h
    exact absurd h (by simp [State.reset, State.resetWith])
  lsqClass := by
    intro j h
    rw [hl] at h
    exact absurd (by revert j; decide : (State.reset.lsq.entry[j]).state = .empty) h
  slotState := by
    rw [hs]
    intro j h
    exact absurd (by revert j; decide : (State.reset.rs.slot[j]).state = .empty) h
  lsqState := by
    rw [hl]
    intro j h
    exact absurd (by revert j; decide : (State.reset.lsq.entry[j]).state = .empty) h
  lsqCount := by rw [hl]; decide
  lsqTail := by rw [hl]; decide
  lsqOccupied := by
    have h : ∀ j : LsqIdx, (State.reset.lsq.entry[j]).state ≠ .empty ↔ lsqLive State.reset.lsq j = true := by decide
    rw [hl]
    exact h
  roomRs := by simp [hi]
  roomLsq := by simp [hi]
  memFree := by simp [hm, hq]
  reqFree := by
    rw [hl]
    intro r h
    exact absurd h (by simp [State.reset, State.resetWith])
  pendingValid := by simp [hq]
  jalrStalls := by
    intro i h
    obtain ⟨-, h | h⟩ := h <;> rcases hr i with h' | h' <;> rw [h] at h' <;> exact absurd h' (by decide)
  jalrUnique := by
    intro i j h
    obtain ⟨-, h | h⟩ := h <;> rcases hr i with h' | h' <;> rw [h] at h' <;> exact absurd h' (by decide)
  commitGone := by simp [hc]
  flushNoIssue := by simp [hi]

theorem reset_pipelineInv : PipelineInv State.reset := by
  apply pipelineInv_of_idle <;> decide

theorem add_pipelineInv : PipelineInv sAdd := by
  apply pipelineInv_of_idle <;> decide

theorem ready_pipelineInv : PipelineInv sReady := by
  apply pipelineInv_of_idle <;> decide

theorem flush_pipelineInv : PipelineInv (withFlush sReady) := by
  apply pipelineInv_of_idle <;> decide

theorem reset_quiet : Quiet State.reset where
  running := by decide
  notMarked := by decide
  robEmpty := by decide
  robPointers := by decide
  robCount := by decide
  noFlush := by decide
  noWait := by decide
  noIssue := by decide
  noCommit := by decide
  pcs := by decide
  rsEmpty := by decide
  noDispatch := by decide
  lsqEmpty := by decide
  lsqPointers := by decide
  lsqCount := by decide
  noRequest := by decide
  noAluOut := by decide
  memFree := by decide
  noPending := by decide
  noMemOut := by decide
  noPlayback := by decide
  notBusy := by decide
  guardPending := by decide
  admitted := by decide

theorem reset_canIssue (u : IssueUnit) : CanIssue State.reset u where
  inv := reset_pipelineInv
  noFlush := by decide
  noFlushNow := by decide
  noWait := by decide
  room := by cases u <;> decide
  admitted := by decide

theorem add_noPlayback (i : RobIdx) : sAdd.mem.playback[i] = none := by
  revert i
  decide

theorem add_playbackInv : PlaybackInv sAdd where
  memory := by decide
  owner := fun i r h => absurd ((add_noPlayback i).symm.trans h) (by simp)
  past := fun i r h => absurd ((add_noPlayback i).symm.trans h) (by simp)
  distinct := fun i j r q h => absurd ((add_noPlayback i).symm.trans h) (by simp)
  length := fun i r h => absurd ((add_noPlayback i).symm.trans h) (by simp)

theorem add_noIssue : sAdd.csu.issue = none := rfl
theorem add_noCommit : sAdd.csu.commit = none := rfl

theorem add_zeroRegInv : ZeroRegInv sAdd where
  value := by decide
  busy := by decide
  rob := by decide
  issue := by simp [add_noIssue]
  commit := by simp [add_noCommit]

theorem add_notLive (i : RobIdx) : sAdd.csu.live i = false := by
  revert i
  decide

theorem add_notBusy (r : RegIdx) : sAdd.rf.isBusy r = false := by
  revert r
  decide

theorem add_producerTable : issueLatchAgrees sAdd ∧ ProducerTableOk sAdd := by
  refine ⟨by simp [issueLatchAgrees, add_noIssue], fun _ r _ => ⟨fun i h => ?_, fun _ => .inl (add_notBusy r)⟩⟩
  have := h.1.1
  rw [add_notLive] at this
  exact absurd this (by decide)

/-! ### A state for the hypotheses of each statement, and for each of its clauses -/

theorem test_witness_StepRunsDecodedInstruction :
    sAdd.drv.status = .running ∧ decodeWord Config.core (fetchWord sAdd) = .ok anAdd := by decide

theorem test_witness_StepRunsThePlacedWord :
    State.reset.drv.status = .running ∧ State.reset.mem.bytes.wf = true ∧ anAdd.wellFormed = true := by decide

/-- Reset memory is zeros, and 0 is an unknown word: both clauses. -/
theorem test_witness_UnknownWordFaultsOnceRobIsEmpty :
    State.reset.drv.status = .running ∧
      decodeWord Config.core (fetchWord State.reset) = .error (.unknownOpcode 0#32) ∧
      State.reset.csu.flushReq = false ∧ State.reset.csu.flushNow = false ∧ State.reset.csu.jalrWait = false ∧
      State.reset.csu.robCount = 0 ∧ fetchesStored State.reset State.reset.csu.specPc = false ∧
      refusedFetch (.unknown (fetchWord State.reset)) State.reset = none := by decide

theorem test_witness_UnknownWordStallsBehindOlderEntries :
    sReady.drv.status = .running ∧ decodeWord Config.core (fetchWord sReady) = .error (.unknownOpcode 0#32) ∧
      PipelineInv sReady ∧ 0 < sReady.csu.robCount ∧
      (sReady.csu.commits = true → fetchesStored sReady sReady.csu.headEntry.pc = false) ∧
      sReady.csu.flushReq = false ∧ sReady.csu.jalrWait = false :=
  ⟨by decide, by decide, ready_pipelineInv, by decide, by decide, by decide, by decide⟩

theorem test_witness_EndedRunTakesNoStep :
    ({ State.reset with drv := { cycle := 0, status := .capped } } : State).drv.status ≠ .running := by decide

theorem test_witness_DecodeOfEncode : anAdd.wellFormed = true ∧ (Instr.jal 1#5 (-4#21)).wellFormed = true := by decide

theorem test_witness_EncodeOfDecode : decodeWord Config.core 0x002081B3#32 = .ok anAdd := by decide

theorem test_witness_FullIdsSeparateTheClasses : anAdd.wellFormed = true ∧ anAdd ≠ .halt := by decide

theorem test_witness_HaltWordBeforeEverything : decodeWord Config.core 0x0FF50513#32 = .ok .halt := by decide

theorem test_witness_LooseDecodeLooksAtBit30Only :
    (0x00#7 : BitVec 7).getLsbD 5 = (0x01#7 : BitVec 7).getLsbD 5 ∧
      decodeWord { Config.core with strictDecode := false } (encodeR 0x00#7 0#3 0x33#7 3#5 1#5 2#5) = .ok anAdd ∧
      decodeWord { Config.core with strictDecode := false } (encodeR 0x00#7 1#3 0x13#7 1#5 2#5 31#5) =
        .ok (.slli 1#5 2#5 31#5) := by decide

theorem test_witness_SystemAndFenceWordsAreUnknown :
    Field.opcode 0x0000000F#32 = 0x0F#7 ∧ Field.opcode 0x00000073#32 = 0x73#7 ∧
      (0x00500092#32 : Word).extractLsb' 0 2 ≠ 3#2 := by decide

/-- A form of one word, one of two, and the one whose second word is the halt sentinel's. -/
theorem test_witness_PseudoInstructionsRebuildTheirOperand :
    (10#5 : RegIdx) ≠ 0#5 ∧ (∀ i ∈ (Pseudo.li 10#5 255#32).expand, i.wellFormed = true) ∧
      (∀ i ∈ (Pseudo.li 5#5 0x12345FFF#32).expand, i.wellFormed = true) ∧
      (∃ i ∈ (Pseudo.li 10#5 0x000010FF#32).expand, i.wellFormed = false) := by decide

/-- The ALU statement: an empty dispatch latch, a record in it, and a flush tick. -/
theorem test_witness_AluLatchHoldsTheDispatchedResult :
    (∃ t, exec anAdd sAdd = .next t ∧ sAdd.rs.dispatch.isNone = true) ∧
    (∃ s d t, exec anAdd s = .next t ∧ s.csu.flushReq = false ∧ s.rs.dispatch = some d) ∧
    (∃ s t, exec anAdd s = .next t ∧ s.csu.flushReq = true) := by
  let d : DispatchLatch := { cls := .add, a := 5#32, b := 7#32, imm := 0#32, shamt := 0#5, pc := 0#32, rob := 0 }
  let s : State := { State.reset with rs := { State.reset.rs with dispatch := some d } }
  obtain ⟨t, h, -⟩ := next_of (show isNext (exec anAdd sAdd) (fun _ => true) = true by decide)
  obtain ⟨u, h', -⟩ := next_of (show isNext (exec anAdd s) (fun _ => true) = true by decide)
  obtain ⟨v, h'', -⟩ := next_of (show isNext (exec anAdd (withFlush State.reset)) (fun _ => true) = true by decide)
  exact ⟨⟨t, h, rfl⟩, ⟨s, d, u, h', rfl, rfl⟩, ⟨_, v, h'', rfl⟩⟩

theorem test_witness_Quiet : Quiet State.reset ∧ State.reset.mem.bytes.wf = true := ⟨reset_quiet, rfl⟩

theorem test_witness_IssueAllocatesAndBroadcasts :
    CanIssue State.reset anAdd.cls.unit ∧ CanIssue State.reset (Instr.sw 2#5 1#5 0#12).cls.unit :=
  ⟨reset_canIssue _, reset_canIssue _⟩

/-- R106 at its boundaries: 31 and 32 entries, 1 and 0 free RS slots with and without a pending accept, and 1 and 0
free LSQ entries. -/
theorem test_witness_IssueStallsWithoutCapacity :
    (isNext (exec anAdd (withRob 31 readyEntry)) fun t => t.csu.issue.isSome) = true ∧
    (isNext (exec anAdd (withRob 32 readyEntry)) fun t => t.csu.issue.isNone) = true ∧
    (isNext (exec anAdd (withSlots State.reset fun j => if j.val < 31 then waitingSlot else RsSlot.empty))
      fun t => t.csu.issue.isSome) = true ∧
    (isNext (exec anAdd (withSlots State.reset fun _ => waitingSlot)) fun t => t.csu.issue.isNone) = true ∧
    (isNext (exec anAdd (withIssue
        (withSlots State.reset fun j => if j.val < 31 then waitingSlot else RsSlot.empty) anIssue))
      fun t => t.csu.issue.isNone) = true ∧
    (isNext (exec (.lw 4#5 0#5 0#12) { State.reset with lsq := { State.reset.lsq with count := 31 } })
      fun t => t.csu.issue.isSome) = true ∧
    (isNext (exec (.lw 4#5 0#5 0#12) { State.reset with lsq := { State.reset.lsq with count := 32 } })
      fun t => t.csu.issue.isNone) = true := by
  refine ⟨?_, ?_, ?_, ?_, ?_, ?_, ?_⟩ <;> decide

theorem test_witness_IssueStallsWithoutCapacity_inv :
    State.reset.csu.flushReq = false ∧ PipelineInv State.reset ∧
      refusedFetch (.known (issueReqOf anAdd)) State.reset = none :=
  ⟨rfl, reset_pipelineInv, by decide⟩

/-- A jalr's entry, Executing. -/
def jalrEntry : RobEntry := { RobEntry.empty with state := .executing, cls := .jalr }

/-- The four states of the statement: a flush tick, a mismatched head, a jalr pending, a jalr's result. -/
theorem test_witness_NoIssueWhileFlushingOrWaitingForJalr :
    (isNext (exec anAdd (withFlush State.reset)) fun _ => true) = true ∧
    (isNext (exec anAdd (withRob 1 { readyEntry with mismatch := true })) fun t => t.csu.flushReq) = true ∧
    (isNext (exec anAdd (withWait State.reset)) fun t => t.csu.jalrWait) = true ∧
    (isNext (exec anAdd (withAluOut (withWait (withRob 1 jalrEntry)) { rob := 0, value := 4#32, nextPc := 0x100#32 }))
      fun t => t.csu.specPc == 0x100#32) = true := by
  refine ⟨?_, ?_, ?_, ?_⟩ <;> decide

/-- The state in which x1 waits for entry 5. -/
def sBusy : State :=
  { State.reset with
    rf := { State.reset.rf with busy := State.reset.rf.busy.set 1 true, producer := State.reset.rf.producer.set 1 5 } }

/-- R109: each case in its own state. -/
theorem test_witness_OperandsAreResolvedAtIssue :
    resolveReg State.reset 1#5 = .val 0#32 ∧
    resolveReg (withIssue State.reset anIssue) 1#5 = .tag 9 ∧
    resolveReg (withCommit sBusy { aCommit with rob := 5 }) 1#5 = .val 7#32 ∧
    resolveReg { sBusy with csu := (withRob 6 readyEntry).csu } 1#5 = .val 7#32 ∧
    resolveReg (withAluOut sBusy { rob := 5, value := 8#32, nextPc := 0#32 }) 1#5 = .val 8#32 ∧
    resolveReg (withMemOut sBusy { rob := 5, value := 9#32 }) 1#5 = .val 9#32 ∧
    resolveReg sBusy 1#5 = .tag 5 := by decide

theorem test_witness_OnlyTheHeadCommits :
    (isNext (exec anAdd (withRob 2 readyEntry)) fun t => t.csu.commit.isSome) = true ∧
      (withRob 2 readyEntry).csu.flushReq = false ∧ 0 < (withRob 2 readyEntry).csu.robCount ∧
      ((withRob 2 readyEntry).csu.rob[(withRob 2 readyEntry).csu.robHead]).state = .readyToCommit ∧
      ((withRob 2 readyEntry).csu.rob[(1 : RobIdx)]).state = .readyToCommit ∧
      (isNext (exec anAdd State.reset) fun t => t.csu.commit.isNone) = true := by
  refine ⟨?_, ?_, ?_, ?_, ?_, ?_⟩ <;> decide

def haltEntry : RobEntry := { readyEntry with cls := .halt, hasRd := false }

/-- a0 from the commit latch (x10 := 7), a0 from the RF (0), and a commit that is no halt. -/
theorem test_witness_HaltLatchesTheLowByteOfA0 :
    (isNext (exec anAdd (withCommit (withRob 1 haltEntry) { aCommit with rd := 10#5 }))
      fun t => t.csu.haltSignal == 0x107#32) = true ∧
    (isNext (exec anAdd (withRob 1 haltEntry)) fun t => t.drv.status == .halted 0#8) = true ∧
    (isNext (exec anAdd sReady) fun t => t.csu.haltSignal == 0#32) = true := by
  refine ⟨?_, ?_, ?_⟩ <;> decide

def executingEntry : RobEntry := { readyEntry with state := .executing, specNext := 4#32 }

/-- A completion by the ALU with the guessed next PC and with another, one by Memory, and an Issued entry. -/
theorem test_witness_BroadcastsCompleteTheirEntry :
    (isNext (exec anAdd (withAluOut (withRob 1 executingEntry) { rob := 0, value := 5#32, nextPc := 4#32 }))
      fun t => !(t.csu.rob[(0 : RobIdx)]).mismatch && (t.csu.rob[(0 : RobIdx)]).value == 5#32) = true ∧
    (isNext (exec anAdd (withAluOut (withRob 1 executingEntry) { rob := 0, value := 5#32, nextPc := 8#32 }))
      fun t => (t.csu.rob[(0 : RobIdx)]).mismatch) = true ∧
    (isNext (exec anAdd (withMemOut (withRob 1 executingEntry) { rob := 0, value := 5#32 }))
      fun t => (t.csu.rob[(0 : RobIdx)]).state == .readyToCommit) = true ∧
    (isNext (exec anAdd (withRob 1 { executingEntry with state := .issued }))
      fun t => (t.csu.rob[(0 : RobIdx)]).state == .executing) = true := by
  refine ⟨?_, ?_, ?_, ?_⟩ <;> decide

/-- Each move of R25, by a step. -/
theorem test_witness_RobEntriesLiveInOrder :
    (isNext (step sAdd) fun t => (t.csu.rob[(0 : RobIdx)]).state == .issued) = true ∧
    (isNext (step (withRob 1 { executingEntry with state := .issued }))
      fun t => (t.csu.rob[(0 : RobIdx)]).state == .executing) = true ∧
    (isNext (step (withAluOut (withRob 1 executingEntry) { rob := 0, value := 5#32, nextPc := 4#32 }))
      fun t => (t.csu.rob[(0 : RobIdx)]).state == .readyToCommit) = true ∧
    (isNext (step sReady) fun t => (t.csu.rob[(0 : RobIdx)]).state == .empty) = true ∧
    (isNext (step (withFlush (withRob 1 executingEntry)))
      fun t => (t.csu.rob[(0 : RobIdx)]).state == .empty) = true := by
  refine ⟨?_, ?_, ?_, ?_, ?_⟩ <;> decide

/-- A commit by the recorded producer, a commit and an issue of one register in one tick, and a flush tick. -/
theorem test_witness_RegisterFileTick :
    (isNext (exec anAdd (withCommit sBusy { aCommit with rob := 5 }))
      fun t => !t.rf.isBusy 1#5 && t.rf.read 1#5 == 7#32) = true ∧
    (isNext (exec anAdd (withIssue (withCommit sBusy { aCommit with rob := 5 }) anIssue))
      fun t => t.rf.isBusy 1#5 && t.rf.producerOf 1#5 == 9 && t.rf.read 1#5 == 7#32) = true ∧
    (isNext (exec anAdd (withFlush sBusy)) fun t => !t.rf.isBusy 1#5) = true := by
  refine ⟨?_, ?_, ?_⟩ <;> decide

/-- Slots 3 and 7 Ready: 3 is dispatched and 7 waits; and no slot Ready. -/
theorem test_witness_RsDispatchesTheLowestReadySlot :
    (isNext (exec anAdd (withSlots State.reset fun j => if j = 3 ∨ j = 7 then readySlot else RsSlot.empty))
      fun t => t.rs.dispatch.isSome && (t.rs.slot[(3 : RsIdx)]).state == .empty &&
        (t.rs.slot[(7 : RsIdx)]).state == .ready) = true ∧
    (isNext (exec anAdd State.reset) fun t => t.rs.dispatch.isNone) = true := by
  refine ⟨?_, ?_⟩ <;> decide

/-- Both operands filled in one tick, by the ALU and by Memory; and one left waiting. -/
theorem test_witness_SnoopFillsWaitingOperands :
    (isNext (exec anAdd (withMemOut (withAluOut
        { withSlots State.reset (fun j => if j = 0 then waitingSlot else RsSlot.empty) with
          csu := (withRob 7 executingEntry).csu }
        { rob := 5, value := 1#32, nextPc := 4#32 }) { rob := 6, value := 2#32 }))
      fun t => t.rs.slot[(0 : RsIdx)] == { waitingSlot with state := .ready, op1 := .val 1#32, op2 := .val 2#32 }) = true ∧
    (isNext (exec anAdd (withAluOut
        { withSlots State.reset (fun j => if j = 0 then waitingSlot else RsSlot.empty) with
          csu := (withRob 7 executingEntry).csu }
        { rob := 5, value := 1#32, nextPc := 4#32 }))
      fun t => t.rs.slot[(0 : RsIdx)] == { waitingSlot with op1 := .val 1#32 }) = true := by
  refine ⟨?_, ?_⟩ <;> decide

theorem test_witness_RsAcceptsIntoTheLowestEmptySlot :
    (isNext (exec anAdd (withIssue (withSlots State.reset fun j => if j = 0 then waitingSlot else RsSlot.empty) anIssue))
      fun t => (t.rs.slot[(1 : RsIdx)]).rob == 9 && (t.rs.slot[(2 : RsIdx)]).state == .empty) = true ∧
    (isNext (exec anAdd (withIssue State.reset aLoadIssue))
      fun t => (t.rs.slot[(0 : RsIdx)]).state == .empty) = true := by
  refine ⟨?_, ?_⟩ <;> decide

/-- The LSQ with one entry at its head. -/
def withLsqHead (e : LsqEntry) : State :=
  { State.reset with lsq := { State.reset.lsq with entry := State.reset.lsq.entry.set 0 e, tail := 1, count := 1 } }

def readyStore : LsqEntry :=
  { state := .ready, cls := .sb, op1 := .val 0x2000#32, op2 := .val 0x12345678#32, imm := 1#32, rob := 3 }

/-- A Ready store, a Ready load, and a head that waits because Memory is Busy. -/
theorem test_witness_LsqSendsItsReadyHead :
    (isNext (exec anAdd (withLsqHead readyStore))
      fun t => t.lsq.req == some { type := 2#4, signed := false, addr := 0x2001#32, data := 0x78#32, rob := 3 }) = true ∧
    (isNext (exec anAdd (withLsqHead { readyStore with cls := .lh }))
      fun t => t.lsq.req == some { type := 5#4, signed := true, addr := 0x2001#32, data := 0#32, rob := 3 }) = true ∧
    (isNext (exec anAdd { withLsqHead readyStore with mem := { State.reset.mem with state := .busy1 } })
      fun t => t.lsq.req.isNone && t.lsq.head == 0) = true ∧
    accessWidth readyStore.cls = some .byte := by
  refine ⟨?_, ?_, ?_, ?_⟩ <;> decide

/-- An accept, no accept, a waiting entry, and a full LSQ. -/
theorem test_witness_LsqAppendsAtItsTail :
    (isNext (exec anAdd (withIssue State.reset aLoadIssue))
      fun t => (t.lsq.entry[(0 : LsqIdx)]).rob == 9 && t.lsq.tail == 1) = true ∧
    (isNext (exec anAdd (withAluOut
        { withLsqHead { readyStore with state := .awaitingOperands, op1 := .tag 5 } with
          csu := (withRob 6 executingEntry).csu }
        { rob := 5, value := 1#32, nextPc := 4#32 }))
      fun t => (t.lsq.entry[(0 : LsqIdx)]).state == .ready && t.lsq.tail == 1) = true ∧
    (let s : State := withIssue { State.reset with lsq := { State.reset.lsq with count := 32 } } aLoadIssue;
     s.csu.flushReq = false ∧ s.lsq.count = lsqSize ∧ s.csu.issue = some aLoadIssue ∧ aLoadIssue.unit = .lsq) := by
  refine ⟨?_, ?_, ?_⟩ <;> decide

/-- R131: with LSQ_SIZE = 1 a queue of one entry takes no second load, and a tick that would make it is refused room. -/
theorem test_witness_LsqNeverHoldsMoreThanItsSize :
    (isNext (stepWith { Config.core with lsqSize := 1 }
        { placed (.lw 4#5 0#5 0#12) State.reset with lsq := { State.reset.lsq with count := 1 } })
      fun t => t.lsq.count == 1 && t.csu.issue.isNone) = true ∧
    (isNext (stepWith { Config.core with lsqSize := 1 } (placed (.lw 4#5 0#5 0#12) State.reset))
      fun t => t.lsq.count == 0 && t.csu.issue.any fun u => u.unit == .lsq) = true ∧
    (isNext (stepWith { Config.core with lsqSize := 1 } (withIssue (placed anAdd State.reset) aLoadIssue))
      fun t => t.lsq.count == 1 && t.lsq.tail == 0) = true := by
  refine ⟨?_, ?_, ?_⟩ <;> decide

/-- I4: a memory of 4 bytes has the word at 0, and the fetch of the word at 4 is refused. -/
theorem test_smallMemory :
    isNext (stepWith { Config.core with memBytes := 4 } (placed anAdd State.reset)) (fun _ => true) = true ∧
      refusal (stepWith { Config.core with memBytes := 4 }
          { State.reset with csu := { State.reset.csu with specPc := 2#32 } }) =
        some (.addressOutsideMemory 4#32) := by
  refine ⟨?_, ?_⟩ <;> decide

def aRead : MemRequest := { type := 9#4, signed := false, addr := 0x2000#32, data := 0#32, rob := 3 }
def aWrite : MemRequest := { type := 2#4, signed := false, addr := 0x2001#32, data := 0x78#32, rob := 3 }

/-- Memory in a state with a pending request. -/
def withMem (m : MemState) (p : Option MemRequest) : State :=
  { State.reset with mem := { State.reset.mem with bytes := startMemory, state := m, pending := p } }

/-- Each state of the protocol: Free without and with a request, Busy_1, Busy_2 with a read and with a write. -/
theorem test_witness_MemoryBusyProtocol :
    (isNext (exec anAdd (withMem .free none)) fun t => t.mem.state == .free) = true ∧
    (isNext (exec anAdd { withMem .free none with lsq := { State.reset.lsq with req := some aRead } })
      fun t => t.mem.state == .busy1 && t.mem.pending == some aRead) = true ∧
    (isNext (exec anAdd (withMem .busy1 (some aRead))) fun t => t.mem.state == .busy2) = true ∧
    (isNext (exec anAdd (withMem .busy2 (some aRead)))
      fun t => t.mem.out == some { rob := 3, value := 0x44332211#32 }) = true ∧
    (isNext (exec anAdd (withMem .busy2 (some aWrite))) fun t => t.mem.wcount == 1) = true := by
  refine ⟨?_, ?_, ?_, ?_, ?_⟩ <;> decide

theorem test_witness_MemoryChangesOnlyTheStoredBytes :
    (withMem .busy2 (some aWrite)).mem.bytes.wf = true ∧
      (isNext (exec anAdd (withMem .busy2 (some aWrite))) fun _ => true) = true ∧
      (withMem .busy2 (some aWrite)).csu.flushReq = false ∧
      memWriting (withMem .busy2 (some aWrite)) = some (aWrite, .byte) := by
  refine ⟨?_, ?_, ?_, ?_⟩ <;> decide

theorem test_witness_ByteOrderIsLittleEndian : startMemory.wf = true := by decide

/-- The old byte at 0x2001, recorded by entry 0. -/
def aRecord : Playback := { ts := 0, addr := 0x2001#32, len := .byte, old := [0x99#8] }

/-- A performed store of entry 0, ReadyToCommit. -/
def sStored : State :=
  { withRob 1 readyEntry with
    mem := { State.reset.mem with bytes := startMemory, playback := State.reset.mem.playback.set 0 (some aRecord), wcount := 1 } }

theorem test_witness_CommitDiscardsThePlaybackRecord :
    (isNext (exec anAdd (withCommit sStored { aCommit with rob := 0 }))
      fun t => t.mem.playback[(0 : RobIdx)].isNone) = true ∧
    (isNext (exec anAdd (withCommit sStored { aCommit with rob := 8 }))
      fun t => t.mem.playback[(0 : RobIdx)].isSome) = true ∧
    memWriting (withCommit sStored { aCommit with rob := 8 }) = none := by
  refine ⟨?_, ?_, ?_⟩ <;> decide

theorem test_witness_FlushTickEmptiesEveryUnit :
    PipelineInv (withFlush sReady) ∧ (withFlush sReady).csu.flushReq = true :=
  ⟨flush_pipelineInv, rfl⟩

theorem stored_record {i : RobIdx} {r : Playback} (h : (withFlush sStored).mem.playback[i] = some r) :
    i = 0 ∧ r = aRecord := by
  have key : ∀ i : RobIdx, (withFlush sStored).mem.playback[i] = if i = 0 then some aRecord else none := by decide
  rw [key] at h
  split at h
  · exact ⟨‹_›, (Option.some.inj h).symm⟩
  · exact absurd h (by simp)

theorem stored_playbackInv : PlaybackInv (withFlush sStored) where
  memory := by decide
  owner := by
    intro i r h
    rw [(stored_record h).1]
    exact .inl (by decide)
  past := by
    intro i r h
    rw [(stored_record h).2]
    decide
  distinct := by
    intro i j r q hr hq _
    rw [(stored_record hr).1, (stored_record hq).1]
  length := by
    intro i r h
    rw [(stored_record h).2]
    decide

/-- A record to undo, a byte it covers (0x2001) and one it does not (0x2000). -/
theorem test_witness_FlushRestoresEveryOverwrittenByte :
    PlaybackInv (withFlush sStored) ∧ (withFlush sStored).csu.flushReq = true ∧
      (withFlush sStored).mem.playback[(0 : RobIdx)] = some aRecord ∧ commitsSlot (withFlush sStored) 0 = false ∧
      (isNext (exec anAdd (withFlush sStored))
        fun t => t.mem.bytes.read8 0x2001#32 == 0x99#8 && t.mem.bytes.read8 0x2000#32 == 0x11#8) = true :=
  ⟨stored_playbackInv, by decide, by decide, by decide, by decide⟩

/-- The invariants and a step, together (also the witness of the three statements that an invariant is kept). -/
theorem test_witness_TicksWithoutCommitAreInvisible :
    PipelineInv sAdd ∧ PlaybackInv sAdd ∧ ∃ t, step sAdd = .next t ∧ t.csu.commit.isNone = true :=
  ⟨add_pipelineInv, add_playbackInv, next_of (show isNext (step sAdd) (fun t => t.csu.commit.isNone) = true by decide)⟩

theorem test_witness_RegisterZeroIsNeverWrittenOrTracked :
    ZeroRegInv sAdd ∧ ∃ t, step sAdd = .next t ∧ true = true :=
  ⟨add_zeroRegInv, next_of (show isNext (step sAdd) (fun _ => true) = true by decide)⟩

theorem test_witness_ProducerTableIsKept :
    PipelineInv sAdd ∧ issueLatchAgrees sAdd ∧ ProducerTableOk sAdd ∧ ∃ t, step sAdd = .next t ∧ true = true :=
  ⟨add_pipelineInv, add_producerTable.1, add_producerTable.2,
    next_of (show isNext (step sAdd) (fun _ => true) = true by decide)⟩

theorem test_witness_InvariantsHoldAfterReset : State.reset = State.reset ∧ bootWith Config.core [] = State.reset := by
  decide

/-- With empty memory the step faults, as the second clause of the statement needs. -/
theorem test_witness_InternalFaultsAreUnreachable :
    PipelineInv State.reset ∧ step State.reset = .fault (.host (.illegalInstruction 0#32 0#32)) := by
  refine ⟨reset_pipelineInv, ?_⟩
  rw [step_unknown (e := .unknownOpcode 0#32) (by decide) (by decide)]
  exact tick_fault_iff.2 ⟨by decide, .illegalInstruction 0#32 0#32, by decide, rfl⟩

/-- A run's first state, its step, and a run whose first step faults. -/
theorem test_witness_MachineRefinesSequentialExecution :
    Host.Core.run Sys2Proof.core 0 (bootWith Config.core [⟨0#32, [0xB3#8, 0x81#8, 0x20#8, 0x00#8]⟩]) =
        .next (bootWith Config.core [⟨0#32, [0xB3#8, 0x81#8, 0x20#8, 0x00#8]⟩]) ∧
      (isNext (step (bootWith Config.core [⟨0#32, [0xB3#8, 0x81#8, 0x20#8, 0x00#8]⟩])) fun t => t.csu.commit.isNone) =
        true ∧
      step (bootWith Config.core []) = .fault (.host (.illegalInstruction 0#32 0#32)) := by
  refine ⟨rfl, by decide, ?_⟩
  rw [test_witness_InvariantsHoldAfterReset.2]
  exact test_witness_InternalFaultsAreUnreachable.2

/-- The statement's second clause: the halt word alone commits in the sixth tick (spec/70: "a program that is only the halt
word takes 6 ticks"). -/
theorem test_witness_MachineRefinesSequentialExecution_commit :
    (isNext (Host.Core.run Sys2Proof.core 5 (bootWith Config.core [⟨0#32, [0x13#8, 0x05#8, 0xF5#8, 0x0F#8]⟩]))
      fun s => isNext (step s) fun t => t.csu.commit.isSome && t.drv.status == .halted 0#8 && t.drv.cycle == 6) = true := by
  decide

/-- No cap; a cap reached; a cap not reached; a halt in the last tick the cap allows. -/
theorem test_witness_CycleCountsAndTerminationOrder :
    (isNext (stepWith Config.core sAdd) fun t => t.drv.status == .running && t.drv.cycle == 1) = true ∧
    (isNext (stepWith { Config.core with maxCycles := some 1 } sAdd) fun t => t.drv.status == .capped) = true ∧
    (isNext (stepWith { Config.core with maxCycles := some 2 } sAdd) fun t => t.drv.status == .running) = true ∧
    (isNext (stepWith { Config.core with maxCycles := some 1 } (withRob 1 haltEntry))
      fun t => t.drv.status == .halted 0#8) = true ∧
    (isNext (exec anAdd { sAdd with drv := { sAdd.drv with cycle := 9 } }) fun _ => true) = true := by
  refine ⟨?_, ?_, ?_, ?_, ?_⟩ <;> decide

/-- Two instructions and an Unknown word at one state; the same in a flush tick, where none of them issues. -/
theorem test_witness_OtherUnitsIgnoreTheFetchedInstruction :
    (isNext (exec anAdd sReady) fun _ => true) = true ∧ (isNext (exec .halt sReady) fun _ => true) = true ∧
    (isNext (unknownTick 0#32 sReady) fun t => t.csu.issue.isNone && t.csu.robTail == 1) = true ∧
    (isNext (exec anAdd (withFlush sReady)) fun t => t.csu.issue.isNone) = true ∧
    (isNext (unknownTick 0#32 (withFlush sReady)) fun t => t.csu.issue.isNone) = true ∧
    sReady.drv.status = .running ∧ decodeWord Config.core (fetchWord sReady) = .error (.unknownOpcode 0#32) ∧
    PipelineInv sReady := by
  refine ⟨?_, ?_, ?_, ?_, ?_, ?_, ?_, ready_pipelineInv⟩ <;> decide

/-- A tick without faults, and one with two: a completion for an Empty entry (7) and an invalid request (3). -/
theorem test_witness_LowestFaultIsReported :
    refusedFetch (.known (issueReqOf anAdd)) sAdd = none ∧
      tickFaults Config.core (.known (issueReqOf anAdd)) sAdd = [] ∧
      tickFaults Config.core (.known (issueReqOf anAdd))
          (withAluOut { State.reset with lsq := { State.reset.lsq with req := some { aRead with type := 3#4 } } }
            { rob := 2, value := 0#32, nextPc := 0#32 }) =
        [.inconsistent (.completion 2), .badRequest 3#4] := by
  refine ⟨?_, ?_, ?_⟩ <;> decide

/-- A committing instruction at 0 whose byte at 2 a store changed; and a store whose commit is broadcast. -/
theorem test_witness_StoredCodeIsRefused :
    (let s : State := { sReady with guard := { pending := [], stored := [2] } };
     s.csu.flushReq = false ∧ s.csu.commits = true ∧ fetchesStored s s.csu.headEntry.pc = true) ∧
    (isNext (exec anAdd { withCommit State.reset aCommit with guard := { pending := [(8, 0x100)], stored := [] } })
      fun t => t.guard.stored == [0x100]) = true ∧
    (isNext (exec anAdd (withMem .busy2 (some aWrite))) fun t => t.guard.pending == [(3, 0x2001)]) = true ∧
    (let s : State := { State.reset with guard := { pending := [], stored := [3] } };
     refusal (step s) = some (.storedCodeFetched 0#32)) ∧
    (let s : State := { sReady with guard := { pending := [], stored := [2] } };
     s.drv.status = .running ∧ decodeWord Config.core (fetchWord s) = .error (.unknownOpcode 0#32) ∧
       refusal (step s) = some (.storedCodeFetched 0#32)) := by
  refine ⟨?_, ?_, ?_, ?_, ?_⟩ <;> decide

/-- A byte of the image, and the same byte loaded again by a later record. -/
theorem test_witness_ImageIsLoadedOverUnloadedBytes :
    (let image : List ImageRecord := [⟨0xFFFFFFFF#32, [1#8, 2#8]⟩, ⟨0#32, [3#8]⟩];
     (bootWith Config.core image).mem.bytes.read8 0xFFFFFFFF#32 = 1#8 ∧
       (bootWith Config.core image).mem.bytes.read8 0#32 = 3#8 ∧
       (bootWith Config.core image).mem.bytes.read8 1#32 = 0#8) := by decide

/-! ### exec as the first instruction after reset, one of each operand form -/

theorem test_first_instruction :
    [Instr.add 3#5 1#5 2#5, .addi 1#5 0#5 5#12, .slli 1#5 2#5 31#5, .lui 5#5 1#20, .jal 1#5 8#21, .jalr 1#5 5#5 3#12,
      .beq 1#5 2#5 16#13, .lw 4#5 0#5 0#12, .sw 2#5 1#5 0#12, .halt].all
      (fun i => isNext (exec i State.reset) fun t => t.csu.issue.isSome && t.csu.robCount == 1) = true := by decide

end Sys2Proof.Tests
end

section
/-! A decoded word is the encoding of its instruction, so the record that issue takes from the instruction names the
fetched word, and the step is the tick of the machine with parameters at this hardware's values (R7, R79). -/

namespace Sys2Proof

/-! ### A word is the encoding of its own fields, with the key fields that decode tested (R64) -/

section Fields

variable {w : Word} {op : BitVec 7} {f3 : BitVec 3} {f7 : BitVec 7}

theorem encodeR_of_fields (ho : Field.opcode w = op) (h3 : Field.funct3 w = f3) (h7 : Field.funct7 w = f7) :
    encodeR f7 f3 op (Field.rd w) (Field.rs1 w) (Field.rs2 w) = w := by
  subst ho h3 h7; exact encodeR_fields w

theorem encodeI_of_fields (ho : Field.opcode w = op) (h3 : Field.funct3 w = f3) :
    encodeI f3 op (Field.rd w) (Field.rs1 w) (Field.immI w) = w := by
  subst ho h3; exact encodeI_fields w

theorem encodeS_of_fields (ho : Field.opcode w = op) (h3 : Field.funct3 w = f3) :
    encodeS f3 op (Field.rs1 w) (Field.rs2 w) (Field.immS w) = w := by
  subst ho h3; exact encodeS_fields w

theorem encodeB_of_fields (ho : Field.opcode w = op) (h3 : Field.funct3 w = f3) :
    encodeB f3 op (Field.rs1 w) (Field.rs2 w) (Field.immB w) = w := by
  subst ho h3; exact encodeB_fields w

theorem encodeU_of_fields (ho : Field.opcode w = op) : encodeU op (Field.rd w) (Field.immU w) = w := by
  subst ho; exact encodeU_fields w

theorem encodeJ_of_fields (ho : Field.opcode w = op) : encodeJ op (Field.rd w) (Field.immJ w) = w := by
  subst ho; exact encodeJ_fields w

end Fields

/-! ### Decode, family by family (R71): what is accepted encodes to the word -/

/-- R72: under STRICT_DECODE the whole funct7 is compared. -/
@[simp] theorem funct7Ok_strict {f7 k : BitVec 7} : funct7Ok true f7 k = true ↔ f7 = k := by
  simp [funct7Ok]

theorem encode_of_decodeBranch {w : Word} {i : Instr} (ho : Field.opcode w = 0x63#7)
    (h : decodeBranch w = .ok i) : encode i = w := by
  simp only [decodeBranch] at h
  split_ifs at h with h3 h3 h3 h3 h3 h3 <;> cases h <;> exact encodeB_of_fields ho h3

theorem encode_of_decodeLoad {w : Word} {i : Instr} (ho : Field.opcode w = 0x03#7)
    (h : decodeLoad w = .ok i) : encode i = w := by
  simp only [decodeLoad] at h
  split_ifs at h with h3 h3 h3 h3 h3 <;> cases h <;> exact encodeI_of_fields ho h3

theorem encode_of_decodeStore {w : Word} {i : Instr} (ho : Field.opcode w = 0x23#7)
    (h : decodeStore w = .ok i) : encode i = w := by
  simp only [decodeStore] at h
  split_ifs at h with h3 h3 h3 <;> cases h <;> exact encodeS_of_fields ho h3

/-- The shifts right are the last of the chain: no test names their funct3, which is 5 because it is no other. -/
theorem encode_of_decodeOpImm {w : Word} {i : Instr} (ho : Field.opcode w = 0x13#7)
    (h : decodeOpImm true w = .ok i) : encode i = w := by
  simp only [decodeOpImm, funct7Ok_strict] at h
  split_ifs at h with h3 h3 h3 h3 h3 h3 h3 h7 h7 h7 <;> cases h
  iterate 6 exact encodeI_of_fields ho h3
  · exact encodeR_of_fields ho h3 h7
  · exact encodeR_of_fields ho (by bv_omega) h7
  · exact encodeR_of_fields ho (by bv_omega) h7

/-- `and` is the last of the chain: no test names its funct3, which is 7 because it is no other. -/
theorem encode_of_decodeOp {w : Word} {i : Instr} (ho : Field.opcode w = 0x33#7)
    (h : decodeOp true w = .ok i) : encode i = w := by
  simp only [decodeOp, funct7Ok_strict] at h
  split_ifs at h <;> cases h
  iterate 9 exact encodeR_of_fields ho ‹_› ‹_›
  · exact encodeR_of_fields ho (by bv_omega) ‹_›

/-- R71: no bit of a word that decodes under STRICT_DECODE is ignored. -/
theorem encode_of_decodeWord {w : Word} {i : Instr} (h : decodeWord Config.core w = .ok i) : encode i = w := by
  simp only [decodeWord] at h
  split_ifs at h with hw ho ho ho ho h3 ho ho ho ho ho
  · cases h; exact hw.symm
  · cases h; exact encodeU_of_fields ho
  · cases h; exact encodeU_of_fields ho
  · cases h; exact encodeJ_of_fields ho
  · cases h; exact encodeI_of_fields ho h3
  · exact encode_of_decodeBranch ho h
  · exact encode_of_decodeLoad ho h
  · exact encode_of_decodeStore ho h
  · exact encode_of_decodeOpImm ho h
  · exact encode_of_decodeOp ho h

end Sys2Proof

namespace Sys2Proof.Machine

@[simp] theorem issueReqOf_word (i : Instr) : (issueReqOf i).word = encode i := by
  cases i <;> rfl

/-- R104: at this hardware's values the record of a fetched instruction is its own issue record, word included. -/
theorem fetched_core_known {s : State} {i : Instr} (hd : decodeWord Config.core (fetchWord s) = .ok i) :
    fetched Config.core s = .known (issueReqOf i) := by
  simp only [fetched, hd]
  rw [← encode_of_decodeWord hd, ← issueReqOf_word]

theorem fetched_unknown {cfg : Config} {s : State} {e : DecodeReject}
    (hd : decodeWord cfg (fetchWord s) = .error e) : fetched cfg s = .unknown (fetchWord s) := by
  simp [fetched, hd]

theorem stepWith_core {s : State} (hr : s.drv.status = .running) :
    stepWith Config.core s = tick Config.core (fetched Config.core s) s :=
  stepWith_of_full le_rfl le_rfl hr

theorem stepWith_ended {cfg : Config} {s : State} (hr : s.drv.status ≠ .running) :
    stepWith cfg s = .fault (.runEnded s.drv.status) := by
  unfold stepWith
  split <;> simp_all [endedRun]

/-- Settles O53: in a running machine, both are the tick of what decode reads at the speculated PC; in one that has
ended, both answer that it has. -/
theorem stepIsTheTickOfTheCoreParameters : Obligations.StepIsTheTickOfTheCoreParameters := by
  intro s
  by_cases hr : s.drv.status = .running
  · rw [stepWith_core hr]
    cases hd : decodeWord Config.core (fetchWord s) with
    | ok i => rw [step_known hr hd, exec_eq_tick, fetched_core_known hd]
    | error e => rw [step_unknown hr hd, fetched_unknown hd]
  · rw [step_ended hr, stepWith_ended hr]

end Sys2Proof.Machine
end

section
/-! What one step can do, said once: the flush tick and the plain tick, and in a plain tick the ways a ROB entry
can move (R25). The invariants are derived from these. -/

namespace Sys2Proof.Machine

/-! ### The two kinds of step -/

/-- A step that answers `t`, is no flush tick, and finds `f` at the speculated PC. -/
structure PlainTick (f : Fetched) (s t : State) : Prop where
  noFlush : s.csu.flushReq = false
  noFault : tickFaults Config.core f s = []
  decoded : ∀ r, f = .known r → ∃ i, r = issueReqOf i
  next : t = afterSync Config.core (unitsNext Config.core f s)

/-- R83, R85: a step with a next state is a flush tick or a plain tick, each without faults. -/
theorem step_flush_or_plain {s t : State} (h : step s = .next t) :
    (s.csu.flushReq = true ∧ ∃ f, t = afterSync Config.core (unitsNext Config.core f s)) ∨ ∃ f, PlainTick f s t := by
  obtain ⟨-, f, hf, -, hn, rfl⟩ := step_cases h
  cases hq : s.csu.flushReq with
  | true => exact .inl ⟨rfl, f, rfl⟩
  | false =>
    refine .inr ⟨f, hq, hn, fun r hr => ?_, rfl⟩
    obtain ⟨i, -, rfl⟩ | ⟨e, -, rfl⟩ := hf
    · exact ⟨i, (Fetched.known.inj hr).symm⟩
    · cases hr

/-- R98: the CSU after a flush tick. -/
theorem csu_of_flushTick {f : Fetched} {s : State} (hf : s.csu.flushReq = true) :
    (afterSync Config.core (unitsNext Config.core f s)).csu = csuFlushed s.csu :=
  csuNext_of_flush _ _ hf

/-! ### The moves of a ROB entry (R25) -/

/-- What entry `i` can become in a plain tick: each constructor with what it says of the entry before. -/
inductive RobMove (f : Fetched) (s : State) (i : RobIdx) : RobEntry → Prop
  | commit (hc : s.csu.commits = true) (hi : i = s.csu.robHead) (he : (s.csu.rob[i]).state = .readyToCommit) :
    RobMove f s i RobEntry.empty
  | aluDone (o : AluOut) (ho : s.alu.out = some o) (hi : o.rob = i) (he : (s.csu.rob[i]).state = .executing) :
    RobMove f s i (completedByAlu s.csu.rob[i] o)
  | memDone (o : MemOut) (ho : s.mem.out = some o) (hi : o.rob = i) (he : (s.csu.rob[i]).state = .executing) :
    RobMove f s i (completedByMem s.csu.rob[i] o)
  | issue (r : IssueReq) (hr : issuing Config.core s f = some r) (hi : i = s.csu.robTail)
      (he : (s.csu.rob[i]).state = .empty) : RobMove f s i (allocated Config.core s.csu.specPc r)
  | start (he : (s.csu.rob[i]).state = .issued) : RobMove f s i { s.csu.rob[i] with state := .executing }
  | keep (he : (s.csu.rob[i]).state ≠ .issued) (hc : s.csu.commits = true → i ≠ s.csu.robHead)
      (ha : ∀ o, s.alu.out = some o → o.rob ≠ i) (hm : ∀ o, s.mem.out = some o → o.rob ≠ i)
      (ht : (issuing Config.core s f).isSome = true → i ≠ s.csu.robTail) : RobMove f s i s.csu.rob[i]

theorem ite_some_eq_some {α : Type} {p : α → Prop} [DecidablePred p] {x y : α} :
    (if p x then some x else none) = some y ↔ some x = some y ∧ p y := by
  rw [Option.ite_none_right_eq_some, and_comm]
  exact and_congr_right fun e => by rw [Option.some.inj e]

theorem aluCompletes_eq_some {s : State} {i : RobIdx} {o : AluOut} :
    aluCompletes s i = some o ↔ s.alu.out = some o ∧ o.rob = i := by
  unfold aluCompletes
  cases s.alu.out with
  | none => simp
  | some q => exact ite_some_eq_some (p := fun o : AluOut => o.rob = i)

theorem memCompletes_eq_some {s : State} {i : RobIdx} {o : MemOut} :
    memCompletes s i = some o ↔ s.mem.out = some o ∧ o.rob = i := by
  unfold memCompletes
  cases s.mem.out with
  | none => simp
  | some q => exact ite_some_eq_some (p := fun o : MemOut => o.rob = i)

theorem aluCompletes_eq_none {s : State} {i : RobIdx} :
    aluCompletes s i = none ↔ ∀ o, s.alu.out = some o → o.rob ≠ i := by
  simp only [Option.eq_none_iff_forall_ne_some, ne_eq, aluCompletes_eq_some, not_and]

theorem memCompletes_eq_none {s : State} {i : RobIdx} :
    memCompletes s i = none ↔ ∀ o, s.mem.out = some o → o.rob ≠ i := by
  simp only [Option.eq_none_iff_forall_ne_some, ne_eq, memCompletes_eq_some, not_and]

namespace PlainTick

variable {f : Fetched} {s t : State}

/-- With an instruction issued there is room in the ROB, so its tail entry is Empty (R106). -/
theorem tail_empty_of_issuing (h : PlainTick f s t) {r : IssueReq} (hr : issuing Config.core s f = some r) :
    (s.csu.rob[s.csu.robTail]).state = .empty :=
  tail_empty (noFault_pointers h.noFault) (issuing_some hr).2.2.1

theorem robEntryNext_move (h : PlainTick f s t) (i : RobIdx) : RobMove f s i (robEntryNext Config.core s f i) := by
  unfold robEntryNext
  split
  next hc =>
    simp only [Bool.and_eq_true, beq_iff_eq] at hc
    obtain ⟨hc, rfl⟩ := hc
    exact .commit hc rfl ((commits_iff _).1 hc).2
  next hc =>
    have hc' : s.csu.commits = true → i ≠ s.csu.robHead := by simpa using hc
    split
    next o ho =>
      obtain ⟨ho, hi⟩ := aluCompletes_eq_some.1 ho
      exact .aluDone o ho hi (hi ▸ noFault_aluOut h.noFault h.noFlush ho)
    next o _ ho =>
      obtain ⟨ho, hi⟩ := memCompletes_eq_some.1 ho
      exact .memDone o ho hi (hi ▸ noFault_memOut h.noFault h.noFlush ho)
    next ha hm =>
      rw [aluCompletes_eq_none] at ha
      rw [memCompletes_eq_none] at hm
      have rest (ht : (issuing Config.core s f).isSome = true → i ≠ s.csu.robTail) :
          RobMove f s i (if (s.csu.rob[i]).state = .issued then { s.csu.rob[i] with state := .executing }
            else s.csu.rob[i]) := by
        split
        next he => exact .start he
        next he => exact .keep he hc' ha hm ht
      split
      next r hr =>
        split
        next hi => subst hi; exact .issue r hr rfl (h.tail_empty_of_issuing hr)
        next hi => exact rest fun _ => hi
      next hr => exact rest (by simp [hr])

/-! ### The fields of the next state -/

theorem rf (h : PlainTick f s t) : t.rf = rfNext s := by rw [h.next]; rfl
theorem rs (h : PlainTick f s t) : t.rs = rsNext s := by rw [h.next]; rfl
theorem lsq (h : PlainTick f s t) : t.lsq = lsqNext Config.core s := by rw [h.next]; rfl
theorem alu (h : PlainTick f s t) : t.alu = aluNext s := by rw [h.next]; rfl
theorem mem (h : PlainTick f s t) : t.mem = memNext s := by rw [h.next]; rfl

theorem csu (h : PlainTick f s t) : t.csu = csuNext Config.core f s := by rw [h.next]; rfl

theorem rob (h : PlainTick f s t) (i : RobIdx) : RobMove f s i t.csu.rob[i] := by
  rw [h.csu, csuNext_rob_get _ _ h.noFlush]
  exact h.robEntryNext_move i

theorem issue (h : PlainTick f s t) :
    t.csu.issue = (issuing Config.core s f).map (issueLatchOf Config.core s) := by
  rw [h.csu, csuNext_issue _ _ h.noFlush]

theorem commit (h : PlainTick f s t) :
    t.csu.commit = if s.csu.commits then some s.csu.commitLatch else none := by
  rw [h.csu, csuNext_commit _ _ h.noFlush]

/-- The latch issued into names the tail entry. -/
theorem issue_eq_some (h : PlainTick f s t) {u : IssueLatch} :
    t.csu.issue = some u ↔ ∃ r, issuing Config.core s f = some r ∧ u = issueLatchOf Config.core s r := by
  simp [h.issue, eq_comm (b := u)]

theorem commit_eq_some (h : PlainTick f s t) {k : CommitLatch} :
    t.csu.commit = some k ↔ s.csu.commits = true ∧ k = s.csu.commitLatch := by
  simp [h.commit, eq_comm (b := k)]

end PlainTick

/-- Settles O31: each way an entry can move in a plain tick is one of the moves R25 lists. -/
theorem robEntriesLiveInOrder : Obligations.RobEntriesLiveInOrder := by
  intro s t h j
  obtain ⟨hf, f, rfl⟩ | ⟨f, ht⟩ := step_flush_or_plain h
  · refine .inl ⟨hf, ?_⟩
    rw [csu_of_flushTick hf, csuFlushed_rob_get]
    rfl
  · refine .inr ⟨ht.noFlush, ?_⟩
    have hm := ht.rob j
    generalize t.csu.rob[j] = e at hm
    cases hm with
    | commit hc hi he => exact .inr (.inr (.inr (.inr ⟨he, rfl, _, ht.commit_eq_some.2 ⟨hc, rfl⟩, hi.symm⟩)))
    | aluDone o ho hi he => exact .inr (.inr (.inr (.inl ⟨he, rfl, .inl ⟨o, ho, hi⟩⟩)))
    | memDone o ho hi he => exact .inr (.inr (.inr (.inl ⟨he, rfl, .inr ⟨o, ho, hi⟩⟩)))
    | issue r hr hi he => exact .inr (.inl ⟨he, rfl, _, ht.issue_eq_some.2 ⟨r, hr, rfl⟩, hi.symm⟩)
    | start he => exact .inr (.inr (.inl ⟨he, rfl⟩))
    | keep he => exact .inl ⟨rfl, he⟩

end Sys2Proof.Machine
end

section
/-! Register 0 (R14, R16, R95): no tick writes its cell or tracks it, and nothing issued names it as a destination. -/

namespace Sys2Proof.Machine

/-- R95: a write to any register leaves cell 0 alone. -/
theorem setReg_get_zero {α : Type} (t : Vector α nRegs) (r : RegIdx) (v : α) : (setReg t r v)[0] = t[0] := by
  have h := setReg_get t r 0#5 v
  rwa [if_neg fun ⟨he, hr⟩ => hr he.symm] at h

theorem rfValueNext_zero (s : State) : (rfValueNext s)[0] = s.rf.value[0] := by
  unfold rfValueNext
  split
  · split
    · exact setReg_get_zero _ _ _
    · rfl
  · rfl

theorem rfBusyNext_zero {s : State} (h : s.rf.busy[0] = false) : (rfBusyNext s)[0] = false := by
  unfold rfBusyNext
  split
  · simp
  · have cleared : (match s.csu.commit with
        | some c => if clearsBusy s c then setReg s.rf.busy c.rd false else s.rf.busy
        | none => s.rf.busy)[0] = false := by
      split
      · split
        · rwa [setReg_get_zero]
        · exact h
      · exact h
    dsimp only
    split
    · split
      · rwa [setReg_get_zero]
      · exact cleared
    · exact cleared

/-- R71: an instruction issued with a destination names a register other than x0. -/
theorem IssueReq.rd_ne_zero {r : IssueReq} (h : r.hasRd = true) : r.rd ≠ 0#5 := by
  simp only [IssueReq.hasRd, Bool.and_eq_true, bne_iff_ne] at h
  exact h.2

namespace ZeroRegInv

variable {f : Fetched} {s t : State}

/-- An entry keeps its destination while it is live, and the one issued has none that is x0. -/
theorem rob_of_move {i : RobIdx} {e : RobEntry} (hz : ZeroRegInv s) (hm : RobMove f s i e) (hd : e.hasRd = true) :
    e.rd ≠ 0#5 := by
  cases hm with
  | commit => cases hd
  | issue r => exact IssueReq.rd_ne_zero hd
  | aluDone | memDone | start | keep => exact hz.rob i hd

theorem of_plainTick (hz : ZeroRegInv s) (h : PlainTick f s t) : ZeroRegInv t where
  value := by rw [h.rf, rfNext_value, rfValueNext_zero, hz.value]
  busy := by rw [h.rf, rfNext_busy, rfBusyNext_zero hz.busy]
  rob i := hz.rob_of_move (h.rob i)
  issue u hu hd := by
    obtain ⟨r, -, rfl⟩ := h.issue_eq_some.1 hu
    exact IssueReq.rd_ne_zero hd
  commit k hk hd := by
    obtain ⟨-, rfl⟩ := h.commit_eq_some.1 hk
    exact hz.rob _ hd

theorem of_flushTick (hz : ZeroRegInv s) (hf : s.csu.flushReq = true) :
    ZeroRegInv (afterSync Config.core (unitsNext Config.core f s)) where
  value := by rw [afterSync_rf, unitsNext_rf, rfNext_value, rfValueNext_zero, hz.value]
  busy := by rw [afterSync_rf, unitsNext_rf, rfNext_busy, rfBusyNext_zero hz.busy]
  rob i hd := by
    rw [csu_of_flushTick hf, csuFlushed_rob_get] at hd
    cases hd
  issue u hu := by
    rw [csu_of_flushTick hf] at hu
    cases hu
  commit k hk := by
    rw [csu_of_flushTick hf] at hk
    cases hk

end ZeroRegInv

/-- Settles O49: the cell and the flag of register 0 are never written, and a destination comes from the decoder. -/
theorem registerZeroIsNeverWrittenOrTracked : Obligations.RegisterZeroIsNeverWrittenOrTracked := by
  intro s t hz h
  obtain ⟨hf, f, rfl⟩ | ⟨f, ht⟩ := step_flush_or_plain h
  · exact hz.of_flushTick hf
  · exact hz.of_plainTick ht

end Sys2Proof.Machine
end

section
/-! The playback records (R33, R52 to R56): which record a slot holds after a plain tick, and that each stays the record
of a performed store that is not yet permanent. -/

namespace Sys2Proof.Machine

/-- R52: a write is of the request that Memory performs in this tick. -/
theorem memPerforming_of_writing {s : State} {p : MemRequest} {w : Width} (h : memWriting s = some (p, w)) :
    memPerforming s = some p := by
  unfold memWriting at h
  split at h
  · split at h <;> cases h
    assumption
  · cases h

/-- R52, R55: slot `i` holds the record of this tick's write or the one it held, unless that was discarded. -/
theorem memPlaybackNext_cases {s : State} (hf : s.csu.flushReq = false) {i : RobIdx} {r : Playback}
    (h : memPlaybackNext s i = some r) :
    (∃ p w, memWriting s = some (p, w) ∧ p.rob = i ∧ r = playbackOf s.mem p w) ∨
      (commitsSlot s i = false ∧ s.mem.playback[i] = some r ∧
        ∀ p w, memWriting s = some (p, w) → p.rob ≠ i) := by
  have kept (hk : (if commitsSlot s i then none else s.mem.playback[i]) = some r) :
      commitsSlot s i = false ∧ s.mem.playback[i] = some r := by
    simpa using hk
  simp only [memPlaybackNext, hf, Bool.false_eq_true, if_false] at h
  split at h
  next p w hw =>
    split at h
    next hi => exact .inl ⟨p, w, hw, hi, (Option.some.inj h).symm⟩
    next hi =>
      obtain ⟨hc, hr⟩ := kept h
      refine .inr ⟨hc, hr, fun q v hq => ?_⟩
      rw [hw] at hq
      cases hq
      exact hi
  next hw =>
    obtain ⟨hc, hr⟩ := kept h
    exact .inr ⟨hc, hr, fun q v hq => absurd (hw.symm.trans hq) (by simp)⟩

/-- R33: the timestamp counter goes on exactly at a write. -/
theorem memNext_wcount_of_writing {s : State} {p : MemRequest} {w : Width} (h : memWriting s = some (p, w)) :
    (memNext s).wcount = s.mem.wcount + 1 := by
  simp [memNext, h]

theorem memNext_wcount_ge (s : State) : s.mem.wcount ≤ (memNext s).wcount := by
  simp only [memNext]
  split <;> omega

namespace PlainTick

variable {f : Fetched} {s t : State}

/-- An entry that is ReadyToCommit stays so until it is the committing head. -/
theorem ready_stays_or_commits (h : PlainTick f s t) {i : RobIdx} (hi : (s.csu.rob[i]).state = .readyToCommit) :
    (t.csu.rob[i]).state = .readyToCommit ∨ commitsSlot t i = true := by
  have hm := h.rob i
  generalize t.csu.rob[i] = e at hm
  cases hm with
  | commit hc he => exact .inr ((commitsSlot_iff t i).2 ⟨_, h.commit_eq_some.2 ⟨hc, rfl⟩, he.symm⟩)
  | aluDone | memDone => exact .inl rfl
  | issue r hr ht he => exact absurd (hi.symm.trans he) (by decide)
  | start he => exact absurd (hi.symm.trans he) (by decide)
  | keep => exact .inl hi

/-- R101: an entry that Memory's result latch names is ReadyToCommit after the tick. -/
theorem ready_of_memOut (h : PlainTick f s t) {o : MemOut} (ho : s.mem.out = some o) :
    (t.csu.rob[o.rob]).state = .readyToCommit := by
  have hx := noFault_memOut h.noFault h.noFlush ho
  have hm := h.rob o.rob
  generalize t.csu.rob[o.rob] = e at hm
  cases hm with
  | commit hc hi he => exact absurd (hx.symm.trans he) (by decide)
  | aluDone | memDone => rfl
  | issue r hr ht he => exact absurd (hx.symm.trans he) (by decide)
  | start he => exact absurd (hx.symm.trans he) (by decide)
  | keep he hc ha hm => exact absurd rfl (hm o ho)

/-- R52: the record a slot holds after the tick is this tick's, whose result is published with it, or an older one. -/
theorem playback_cases (h : PlainTick f s t) {i : RobIdx} {r : Playback} (hr : t.mem.playback[i] = some r) :
    (∃ p w, memWriting s = some (p, w) ∧ p.rob = i ∧ r = playbackOf s.mem p w) ∨
      (commitsSlot s i = false ∧ s.mem.playback[i] = some r ∧
        ∀ p w, memWriting s = some (p, w) → p.rob ≠ i) := by
  rw [h.mem, memNext_playback_get] at hr
  exact memPlaybackNext_cases h.noFlush hr

end PlainTick

namespace PlaybackInv

variable {f : Fetched} {s t : State}

theorem of_plainTick (hp : PlaybackInv s) (h : PlainTick f s t) : PlaybackInv t where
  memory := by rw [h.mem, memNext_bytes]; exact memBytesNext_wf hp.memory
  owner i r hr := by
    obtain ⟨p, w, hw, rfl, -⟩ | ⟨hc, hr, -⟩ := h.playback_cases hr
    · refine .inr (.inl ⟨memResult s.mem.bytes p, ?_, rfl⟩)
      rw [h.mem, memNext_out, memOutNext, memPerforming_of_writing hw]
    · obtain he | ⟨o, ho, rfl⟩ | he := hp.owner i r hr
      · exact (h.ready_stays_or_commits he).imp_right .inr
      · exact .inl (h.ready_of_memOut ho)
      · exact absurd (hc.symm.trans he) (by decide)
  past i r hr := by
    rw [h.mem]
    obtain ⟨p, w, hw, -, rfl⟩ | ⟨-, hr, -⟩ := h.playback_cases hr
    · rw [memNext_wcount_of_writing hw]
      exact Nat.lt_succ_self _
    · exact (hp.past i r hr).trans_le (memNext_wcount_ge s)
  distinct i j r q hr hq hts := by
    obtain ⟨p, w, hw, rfl, rfl⟩ | ⟨-, hr, -⟩ := h.playback_cases hr <;>
      obtain ⟨p', w', hw', rfl, rfl⟩ | ⟨-, hq, -⟩ := h.playback_cases hq
    · rw [hw] at hw'
      cases hw'
      rfl
    · exact absurd hts (hp.past j q hq).ne'
    · exact absurd hts (hp.past i r hr).ne
    · exact hp.distinct i j r q hr hq hts
  length i r hr := by
    obtain ⟨p, w, -, -, rfl⟩ | ⟨-, hr, -⟩ := h.playback_cases hr
    · exact Memory.readBytes_length _ _ _
    · exact hp.length i r hr

/-- With no record, only the form of memory is asked. -/
theorem of_noRecords (hm : s.mem.bytes.wf = true) (hn : ∀ i : RobIdx, s.mem.playback[i] = none) :
    PlaybackInv s where
  memory := hm
  owner i r hr := absurd ((hn i).symm.trans hr) (by simp)
  past i r hr := absurd ((hn i).symm.trans hr) (by simp)
  distinct i j r q hr := absurd ((hn i).symm.trans hr) (by simp)
  length i r hr := absurd ((hn i).symm.trans hr) (by simp)

end PlaybackInv

/-- Settles O48: a flush leaves no record, and a plain tick adds the one of the store it performs, younger than all. -/
theorem playbackInvariantIsKept : Obligations.PlaybackInvariantIsKept := by
  intro s t _ hp h
  obtain ⟨hf, f, rfl⟩ | ⟨f, ht⟩ := step_flush_or_plain h
  · refine .of_noRecords ?_ fun i => ?_
    · exact memBytesNext_wf hp.memory
    · rw [afterSync_mem, unitsNext_mem, memNext_playback_get, memPlaybackNext_of_flush hf]
  · exact hp.of_plainTick ht

end Sys2Proof.Machine
end

section
/-! The machine with nothing in flight: what a flush tick leaves (R85) and what holds at reset (R37). Nothing being in
flight, the pipeline invariant asks only for the empty buffers' pointers. -/

namespace Sys2Proof.Machine

/-- Nothing is in flight: the part of `Quiet` that a flush tick restores, whatever the registers, memory and PCs. -/
structure Drained (s : State) : Prop where
  robEmpty : ∀ i : RobIdx, (s.csu.rob[i]).state = .empty
  robPointers : s.csu.robTail = s.csu.robHead
  robCount : s.csu.robCount = 0
  noIssue : s.csu.issue = none
  noCommit : s.csu.commit = none
  rsEmpty : ∀ j : RsIdx, (s.rs.slot[j]).state = .empty
  noDispatch : s.rs.dispatch = none
  lsqEmpty : ∀ j : LsqIdx, (s.lsq.entry[j]).state = .empty
  lsqPointers : s.lsq.tail = s.lsq.head
  lsqCount : s.lsq.count = 0
  noRequest : s.lsq.req = none
  noAluOut : s.alu.out = none
  memFree : s.mem.state = .free
  noPending : s.mem.pending = none
  noMemOut : s.mem.out = none

theorem Quiet.drained {s : State} (h : Quiet s) : Drained s := { h with }

/-- R24: the indices of an empty ring. -/
theorem ring_pointers_of_empty {n : Nat} {head tail : Fin n} (h : tail = head) :
    tail.val = (head.val + 0) % n := by
  rw [h, Nat.add_zero, Nat.mod_eq_of_lt head.isLt]

namespace Drained

variable {s : State}

theorem aluHolds_eq_nil (h : Drained s) : aluHolds s = [] := by
  have slots : (s.rs.slot.toList.filter fun e => e.state != .empty) = [] := by
    rw [List.filter_eq_nil_iff]
    intro e he
    obtain ⟨j, hj, rfl⟩ := List.getElem_of_mem he
    have := h.rsEmpty ⟨j, by simpa using hj⟩
    simp_all
  simp [aluHolds, slots, h.noDispatch, h.noAluOut]

theorem memHolds_eq_nil (h : Drained s) : memHolds s = [] := by
  have entries : (s.lsq.entry.toList.filter fun e => e.state != .empty) = [] := by
    rw [List.filter_eq_nil_iff]
    intro e he
    obtain ⟨j, hj, rfl⟩ := List.getElem_of_mem he
    have := h.lsqEmpty ⟨j, by simpa using hj⟩
    simp_all
  simp [memHolds, entries, h.noRequest, h.noPending, h.noMemOut]

theorem not_jalrUnresolved (h : Drained s) (i : RobIdx) : ¬ jalrUnresolved s.csu.rob[i] := by
  rintro ⟨-, he | he⟩ <;> exact absurd ((h.robEmpty i).symm.trans he) (by decide)

theorem pipelineInv (h : Drained s) : PipelineInv s where
  pointers := by
    refine (pointersOk_iff _).2 ⟨by simp [h.robCount], ?_, fun i => ?_⟩
    · rw [h.robCount]; exact ring_pointers_of_empty h.robPointers
    · simp only [h.robEmpty i, Csu.live, h.robCount, Nat.not_lt_zero, decide_false, ne_eq, not_true_eq_false,
        Bool.false_eq_true]
  issueEntry := by simp [h.noIssue]
  issuedOnly i hi := absurd ((h.robEmpty i).symm.trans hi) (by decide)
  aluNodup := by simp [h.aluHolds_eq_nil]
  aluEntries i := by simp only [h.aluHolds_eq_nil, h.robEmpty i]; simp
  memNodup := by simp [h.memHolds_eq_nil]
  memEntries i := by simp only [h.memHolds_eq_nil, h.robEmpty i]; simp
  slotClass j hj := absurd (h.rsEmpty j) hj
  dispatchClass := by simp [h.noDispatch]
  lsqClass j hj := absurd (h.lsqEmpty j) hj
  slotState j hj := absurd (h.rsEmpty j) hj
  lsqState j hj := absurd (h.lsqEmpty j) hj
  lsqCount := by simp [h.lsqCount]
  lsqTail := by rw [h.lsqCount]; exact ring_pointers_of_empty h.lsqPointers
  lsqOccupied j := by
    simp only [h.lsqEmpty j, lsqLive, h.lsqCount, Nat.not_lt_zero, decide_false, ne_eq, not_true_eq_false,
      Bool.false_eq_true]
  roomRs := by simp [h.noIssue]
  roomLsq := by simp [h.noIssue]
  memFree := by simp [h.memFree, h.noPending]
  reqFree := by simp [h.noRequest]
  pendingValid := by simp [h.noPending]
  jalrStalls i hi := absurd hi (h.not_jalrUnresolved i)
  jalrUnique i _ hi := absurd hi (h.not_jalrUnresolved i)
  commitGone := by simp [h.noCommit]
  flushNoIssue _ := h.noIssue

/-- R85: the flush tick leaves nothing in flight. -/
theorem of_flushTick {f : Fetched} (hf : s.csu.flushReq = true) :
    Drained (afterSync Config.core (unitsNext Config.core f s)) where
  robEmpty i := by rw [csu_of_flushTick hf, csuFlushed_rob_get]; rfl
  robPointers := by rw [csu_of_flushTick hf]; rfl
  robCount := by rw [csu_of_flushTick hf]; rfl
  noIssue := by rw [csu_of_flushTick hf]; rfl
  noCommit := by rw [csu_of_flushTick hf]; rfl
  rsEmpty j := by rw [afterSync_rs, unitsNext_rs, rsNext_slot_get, rsSlotNext_of_flush hf]; rfl
  noDispatch := rsDispatchNext_of_flush hf
  lsqEmpty j := by rw [afterSync_lsq, unitsNext_lsq, lsqNext_entry_get, lsqEntryNext_of_flush hf]; rfl
  lsqPointers := by simp [lsqNext, hf]
  lsqCount := by simp [lsqNext, hf]
  noRequest := lsqReqNext_of_flush hf
  noAluOut := aluNext_of_flush hf
  memFree := memStateNext_of_flush hf
  noPending := memPendingNext_of_flush hf
  noMemOut := memOutNext_of_flush hf

end Drained

/-! ### Reset and the state before tick 0 (R37, R200) -/

/-- R37: the entries of the reset state that are the same at every index. -/
@[simp] theorem boot_rob_get (image : List ImageRecord) (i : RobIdx) :
    (bootWith Config.core image).csu.rob[i] = RobEntry.empty := by
  simp [bootWith, State.resetWith]

@[simp] theorem boot_slot_get (image : List ImageRecord) (j : RsIdx) :
    (bootWith Config.core image).rs.slot[j] = RsSlot.empty := by
  simp [bootWith, State.resetWith]

@[simp] theorem boot_lsq_get (image : List ImageRecord) (j : LsqIdx) :
    (bootWith Config.core image).lsq.entry[j] = LsqEntry.empty := by
  simp [bootWith, State.resetWith]

@[simp] theorem boot_playback_get (image : List ImageRecord) (i : RobIdx) :
    (bootWith Config.core image).mem.playback[i] = none := by
  simp [bootWith, State.resetWith]

@[simp] theorem boot_isBusy (image : List ImageRecord) (r : RegIdx) :
    (bootWith Config.core image).rf.isBusy r = false := by
  simp [RegFile.isBusy, bootWith, State.resetWith]

@[simp] theorem boot_read (image : List ImageRecord) (r : RegIdx) : (bootWith Config.core image).rf.read r = 0#32 := by
  simp [RegFile.read, bootWith, State.resetWith, Config.core]

@[simp] theorem boot_producerOf (image : List ImageRecord) (r : RegIdx) :
    (bootWith Config.core image).rf.producerOf r = 0 := by
  simp [RegFile.producerOf, bootWith, State.resetWith]

/-- R200: with no image loaded, the state before tick 0 is the one at reset. -/
theorem reset_eq_boot : State.reset = bootWith Config.core [] := rfl

theorem boot_quiet (image : List ImageRecord) : Quiet (bootWith Config.core image) where
  running := rfl
  notMarked := show haltMarked Config.core State.reset.csu = false by decide
  robEmpty i := by rw [boot_rob_get]; rfl
  robPointers := rfl
  robCount := rfl
  noFlush := rfl
  noWait := rfl
  noIssue := rfl
  noCommit := rfl
  pcs := rfl
  rsEmpty j := by rw [boot_slot_get]; rfl
  noDispatch := rfl
  lsqEmpty j := by rw [boot_lsq_get]; rfl
  lsqPointers := rfl
  lsqCount := rfl
  noRequest := rfl
  noAluOut := rfl
  memFree := rfl
  noPending := rfl
  noMemOut := rfl
  noPlayback := boot_playback_get image
  notBusy := boot_isBusy image
  guardPending := rfl
  admitted := rfl

theorem boot_zeroRegInv (image : List ImageRecord) : ZeroRegInv (bootWith Config.core image) where
  value := by simp [bootWith, State.resetWith]
  busy := by simp [bootWith, State.resetWith]
  rob i h := by rw [boot_rob_get] at h; cases h
  issue := by simp [(boot_quiet image).noIssue]
  commit := by simp [(boot_quiet image).noCommit]

/-- R96: no register is marked in a quiet machine, and no entry is live that could have marked one. -/
theorem Quiet.producerTableOk {s : State} (h : Quiet s) : ProducerTableOk s := by
  intro _ r _
  refine ⟨fun i hi => ?_, fun _ => .inl (h.notBusy r)⟩
  obtain ⟨⟨hl, -⟩, -⟩ := hi
  simp [Csu.live, h.robCount] at hl

theorem Quiet.issueLatchAgrees {s : State} (h : Quiet s) : issueLatchAgrees s := by
  simp [Machine.issueLatchAgrees, h.noIssue]

/-- Settles O45: before tick 0 the machine is quiet whatever the image, and memory was written in canonical form. -/
theorem invariantsHoldAfterReset : Obligations.InvariantsHoldAfterReset := by
  intro s hs
  obtain ⟨image, rfl⟩ : ∃ image, s = bootWith Config.core image := hs.elim (fun h => ⟨[], h⟩) id
  have hq := boot_quiet image
  exact ⟨hq.drained.pipelineInv, .of_noRecords (boot_memory_wf _ image) hq.noPlayback, boot_zeroRegInv image,
    hq.issueLatchAgrees, hq.producerTableOk, hq⟩

/-- R37: the Empty entries the reset state is filled with. -/
theorem RobEntry.empty_isCleared : RobEntry.empty.isCleared := by constructor <;> rfl

theorem RsSlot.empty_isCleared : RsSlot.empty.isCleared := by constructor <;> rfl

/-- Settles O59, one unit of the table of R37 after the other. -/
theorem resetValues : Obligations.ResetValues := by
  have hq : Quiet State.reset := boot_quiet []
  refine ⟨fun r => ⟨boot_read [] r, boot_isBusy [] r, boot_producerOf [] r⟩, ?csu, ?rs, ?lsq, hq.noAluOut, ?mem,
    rfl, hq.running⟩
  case csu =>
    refine ⟨rfl, rfl, rfl, hq.noFlush, hq.noWait, hq.noIssue, hq.noCommit, fun i => ?_, rfl, rfl, hq.robCount⟩
    rw [reset_eq_boot, boot_rob_get]
    exact RobEntry.empty_isCleared
  case rs =>
    refine ⟨fun j => ?_, hq.noDispatch⟩
    rw [reset_eq_boot, boot_slot_get]
    exact RsSlot.empty_isCleared
  case lsq => exact ⟨hq.lsqEmpty, rfl, rfl, hq.lsqCount, hq.noRequest⟩
  case mem =>
    exact ⟨Memory.read8_unloaded unloadedByte, hq.memFree, hq.noPending, hq.noMemOut, hq.noPlayback, rfl⟩

end Sys2Proof.Machine
end

section
/-! The two shapes the pipeline's bookkeeping has: a ring of 32 entries with a head and a count (the ROB, R24, and the
LSQ, R30), and the list of what a buffer's occupied places hold. -/

namespace Sys2Proof.Machine

/-! ### A ring, popped at its head and pushed at its tail in one tick -/

section Ring

variable {head tail : Fin 32} {count : Nat} {pop push : Bool}

theorem ring_count_step (hpush : push = true → count < 32) (hc : count ≤ 32) :
    count - (if pop then 1 else 0) + (if push then 1 else 0) ≤ 32 := by
  cases pop <;> cases push <;>
    simp only [Bool.false_eq_true, if_false, if_true, forall_const, false_implies] at hpush ⊢ <;> omega

theorem ring_tail_step (ht : tail.val = (head.val + count) % 32) (hpop : pop = true → 0 < count) :
    (if push then tail + 1 else tail).val =
      ((if pop then head + 1 else head).val + (count - (if pop then 1 else 0) + (if push then 1 else 0))) % 32 := by
  cases pop <;> cases push <;>
    simp only [Bool.false_eq_true, if_false, if_true, Fin.val_add, Fin.val_one, forall_const, false_implies]
      at hpop ⊢ <;> omega

theorem ring_live_step (ht : tail.val = (head.val + count) % 32) (hpop : pop = true → 0 < count)
    (hpush : push = true → count < 32) (hc : count ≤ 32) (i : Fin 32) :
    (i.val + 32 - (if pop then head + 1 else head).val) % 32 <
        count - (if pop then 1 else 0) + (if push then 1 else 0) ↔
      ((pop = true → i ≠ head) ∧ (i.val + 32 - head.val) % 32 < count) ∨ (push = true ∧ i = tail) := by
  cases pop <;> cases push <;>
    simp only [Bool.false_eq_true, if_false, if_true, Fin.val_add, Fin.val_one, Fin.ext_iff, ne_eq, forall_const,
      false_and, or_false, true_and, false_implies] at hpop hpush ⊢ <;> omega

end Ring

/-! ### What the occupied places of a buffer hold -/

/-- The contents of the occupied places, in index order. -/
def heldBy {n : Nat} {α : Type} (g : Fin n → Option α) : List α := (List.finRange n).filterMap g

section HeldBy

variable {n : Nat} {α β : Type} {g g' : Fin n → Option α}

theorem heldBy_fill {j : Fin n} {x : α} (hg : g j = none) (hg' : g' j = some x) (h : ∀ k, k ≠ j → g' k = g k) :
    (heldBy g').Perm (x :: heldBy g) := by
  have split := List.perm_cons_erase (List.mem_finRange j)
  have rest : ((List.finRange n).erase j).filterMap g' = ((List.finRange n).erase j).filterMap g :=
    List.filterMap_congr fun k hk => h k fun e => (List.nodup_finRange n).not_mem_erase (e ▸ hk)
  have hp := split.filterMap g
  have hp' := split.filterMap g'
  rw [List.filterMap_cons_none hg, ← rest] at hp
  rw [List.filterMap_cons_some hg'] at hp'
  exact hp'.trans (hp.symm.cons x)

/-- The place `out`, if it is one and is occupied, is emptied. -/
theorem heldBy_vacate (g : Fin n → Option α) (out : Option (Fin n)) :
    (heldBy g).Perm ((out.bind g).toList ++ heldBy fun k => if out = some k then none else g k) := by
  cases out with
  | none => simp
  | some j =>
    cases hj : g j with
    | none =>
      have : (fun k => if some j = some k then none else g k) = g := by
        funext k
        split
        next e => rw [← Option.some.inj e, hj]
        next => rfl
      rw [this, Option.bind_some, hj]
      rfl
    | some x =>
      simp only [Option.bind_some, hj, Option.toList_some, List.singleton_append]
      exact heldBy_fill (by simp) hj fun k hk => by simp [Ne.symm hk]

theorem toList_eq_map_finRange (v : Vector β n) : v.toList = (List.finRange n).map fun j => v[j] := by
  apply List.ext_getElem <;> simp

/-- What a buffer holds after place `out` is emptied and `into`, an empty one, filled. -/
theorem heldBy_move {out : Option (Fin n)} {into : Option (Fin n × α)}
    (hin : ∀ j x, into = some (j, x) → g j = none ∧ g' j = some x)
    (hrest : ∀ k, (∀ x, into ≠ some (k, x)) → g' k = if out = some k then none else g k) :
    (heldBy g' ++ (out.bind g).toList).Perm (heldBy g ++ (into.map Prod.snd).toList) := by
  have vacated := heldBy_vacate g out
  have filled : (heldBy g').Perm ((into.map Prod.snd).toList ++ heldBy fun k => if out = some k then none else g k) := by
    cases into with
    | none => rw [funext fun k => hrest k (by simp)]; simp
    | some jx =>
      obtain ⟨j, x⟩ := jx
      obtain ⟨hj, hj'⟩ := hin j x rfl
      refine heldBy_fill (by simp [hj]) hj' fun k hk => hrest k fun y e => hk ?_
      exact (congrArg Prod.fst (Option.some.inj e)).symm
  refine (filled.append_right _).trans (.trans ?_ (vacated.symm.append_right _))
  rw [List.append_assoc]
  exact List.perm_append_comm.trans (List.perm_append_comm.append_right _)

/-- A buffer's list of occupied places, as the model writes it. -/
theorem map_filter_toList_eq_heldBy (v : Vector β n) (p : β → Bool) (r : β → α) :
    (v.toList.filter p).map r = heldBy fun j => if p v[j] then some (r v[j]) else none := by
  rw [toList_eq_map_finRange, List.filter_map, List.map_map, ← List.filterMap_eq_map, List.filterMap_filter]
  rfl

/-- With two places of a kind there is one other than `j`. -/
theorem exists_ne_of_two_le_countP {v : Vector β n} {p : β → Bool} (h : 2 ≤ v.toList.countP p) (j : Fin n) :
    ∃ k, k ≠ j ∧ p v[k] = true := by
  by_contra hn
  push Not at hn
  have h1 : (List.finRange n).countP (p ∘ fun j => v[j]) ≤ (List.finRange n).count j :=
    List.countP_mono_left fun k _ hk => by
      by_contra hkj
      exact hn k (by simpa using hkj) hk
  have h2 := List.nodup_iff_count_le_one.1 (List.nodup_finRange n) j
  rw [toList_eq_map_finRange, List.countP_map] at h
  omega

theorem exists_of_countP_pos {v : Vector β n} {p : β → Bool} (h : 0 < v.toList.countP p) :
    ∃ k : Fin n, p v[k] = true := by
  obtain ⟨e, he, hp⟩ := List.countP_pos_iff.1 h
  obtain ⟨k, hk, rfl⟩ := List.getElem_of_mem he
  exact ⟨⟨k, by simpa using hk⟩, hp⟩

end HeldBy

/-- What a path holds after a tick in which `out` leaves it and `into` enters it. -/
theorem holds_step {α : Type} {l l' : List α} {out into : Option α}
    (hp : (l' ++ out.toList).Perm (l ++ into.toList)) (hl : l.Nodup) (ho : ∀ i, out = some i → i ∈ l)
    (hi : ∀ i, into = some i → i ∉ l) :
    l'.Nodup ∧ ∀ i, i ∈ l' ↔ (i ∈ l ∧ out ≠ some i) ∨ into = some i := by
  have whole : (l ++ into.toList).Nodup := by
    refine List.nodup_append.2 ⟨hl, by cases into <;> simp, fun i hil j hj e => ?_⟩
    exact hi i (by simpa [e] using hj) hil
  obtain ⟨hl', -, apart⟩ := List.nodup_append.1 (hp.nodup_iff.2 whole)
  refine ⟨hl', fun i => ?_⟩
  have mem : i ∈ l' ∨ out = some i ↔ i ∈ l ∨ into = some i := by
    simpa [Option.mem_toList] using hp.mem_iff (a := i)
  have left : i ∈ l' → out ≠ some i := fun hi' hout => apart i hi' i (by simp [hout]) rfl
  have right : into = some i → out ≠ some i := fun hin hout => hi i hin (ho i hout)
  tauto

end Sys2Proof.Machine
end

section
/-! What a plain tick can do to the records in flight: to a slot of the Reservation Station (R117), to an entry of the
Load/Store Queue (R124), and along each of the two paths from the issue latch to a broadcast (R101). -/

namespace Sys2Proof.Machine

theorem slotStateOf_ne_empty (o1 o2 : Operand) : slotStateOf o1 o2 ≠ .empty := by
  unfold slotStateOf
  split <;> simp

/-- The ROB index that an RS slot or an LSQ entry in state `st` holds: none if it is Empty. -/
def occupant (st : SlotState) (q : RobIdx) : Option RobIdx := if st != .empty then some q else none

theorem occupant_of_ne {st : SlotState} {q : RobIdx} (h : st ≠ .empty) : occupant st q = some q := by
  simp [occupant, h]

theorem occupant_of_empty {st : SlotState} {q : RobIdx} (h : st = .empty) : occupant st q = none := by
  simp [occupant, h]

/-- Snooping an occupied place leaves it occupied. -/
theorem occupant_slotStateOf {st : SlotState} (q : RobIdx) (o1 o2 : Operand) (h : st ≠ .empty) :
    occupant (slotStateOf o1 o2) q = occupant st q := by
  rw [occupant_of_ne h, occupant_of_ne (slotStateOf_ne_empty _ _)]

/-! ### The Reservation Station (R117 to R121) -/

/-- What a slot holds. -/
def RsSlot.holds (e : RsSlot) : Option RobIdx := occupant e.state e.rob

/-- What slot `j` can become in a plain tick. -/
inductive SlotMove (s : State) (j : RsIdx) : RsSlot → Prop
  | select (hj : rsSelect s.rs = some j) (he : (s.rs.slot[j]).state = .ready) : SlotMove s j RsSlot.empty
  | accept (u : IssueLatch) (hu : rsAccepting s = some u) (hj : rsFirstEmpty s.rs = some j)
      (he : (s.rs.slot[j]).state = .empty) : SlotMove s j (rsAccepted s u)
  | snoop (he : (s.rs.slot[j]).state = .awaitingOperands) : SlotMove s j (rsSnooped s s.rs.slot[j])
  | keep (he : (s.rs.slot[j]).state ≠ .awaitingOperands) (hs : rsSelect s.rs ≠ some j)
      (ha : ∀ u, rsAccepting s = some u → rsFirstEmpty s.rs ≠ some j) : SlotMove s j s.rs.slot[j]

theorem rsSelect_ready {rs : ResStation} {j : RsIdx} (h : rsSelect rs = some j) : (rs.slot[j]).state = .ready := by
  simpa using (firstIdx_spec h).1

theorem rsFirstEmpty_empty {rs : ResStation} {j : RsIdx} (h : rsFirstEmpty rs = some j) :
    (rs.slot[j]).state = .empty := by
  simpa using (firstIdx_spec h).1

theorem rsSlotNext_move {s : State} (hf : s.csu.flushReq = false) (j : RsIdx) : SlotMove s j (rsSlotNext s j) := by
  have notSelected {st : SlotState} (he : (s.rs.slot[j]).state = st) (hne : st ≠ .ready) : rsSelect s.rs ≠ some j :=
    fun h => hne (he.symm.trans (rsSelect_ready h))
  simp only [rsSlotNext, hf, Bool.false_eq_true, if_false]
  split
  next he =>
    split
    next hj => exact .select hj he
    next hj => exact .keep (by rw [he]; simp) hj fun _ _ h => absurd (he.symm.trans (rsFirstEmpty_empty h)) (by simp)
  next he => exact .snoop he
  next he =>
    split
    next u hu =>
      split
      next hj => exact .accept u hu hj he
      next hj => exact .keep (by rw [he]; simp) (notSelected he (by simp)) fun _ _ => hj
    next hu => exact .keep (by rw [he]; simp) (notSelected he (by simp)) fun u h => absurd (hu.symm.trans h) (by simp)

theorem rsAccepting_eq_some {s : State} {u : IssueLatch} :
    rsAccepting s = some u ↔ s.csu.issue = some u ∧ u.unit = .rs := by
  unfold rsAccepting
  cases s.csu.issue with
  | none => simp
  | some q => exact ite_some_eq_some (p := fun v : IssueLatch => v.unit = .rs)

namespace PlainTick

variable {f : Fetched} {s t : State}

theorem slot (h : PlainTick f s t) (j : RsIdx) : SlotMove s j t.rs.slot[j] := by
  rw [h.rs, rsNext_slot_get]
  exact rsSlotNext_move h.noFlush j

theorem dispatch (h : PlainTick f s t) :
    t.rs.dispatch = (rsSelect s.rs).map fun j => rsDispatchOf s.rs.slot[j] := by
  rw [h.rs, rsNext_dispatch]
  simp only [rsDispatchNext, h.noFlush, Bool.false_eq_true, if_false]
  cases rsSelect s.rs <;> rfl

theorem slot_holds_of_accept (h : PlainTick f s t) {u : IssueLatch} {j : RsIdx} (hu : rsAccepting s = some u)
    (hj : rsFirstEmpty s.rs = some j) : (t.rs.slot[j]).holds = some u.rob := by
  have he := rsFirstEmpty_empty hj
  have hm := h.slot j
  generalize t.rs.slot[j] = e at hm
  cases hm with
  | select _ hr => exact absurd (he.symm.trans hr) (by simp)
  | accept v hv =>
    rw [hu] at hv
    cases hv
    exact occupant_of_ne (slotStateOf_ne_empty _ _)
  | snoop hw => exact absurd (he.symm.trans hw) (by simp)
  | keep _ _ ha => exact absurd hj (ha u hu)

theorem slot_holds_of_not_accept (h : PlainTick f s t) {j : RsIdx}
    (ha : ∀ u, rsAccepting s = some u → rsFirstEmpty s.rs ≠ some j) :
    (t.rs.slot[j]).holds = if rsSelect s.rs = some j then none else (s.rs.slot[j]).holds := by
  have hm := h.slot j
  generalize t.rs.slot[j] = e at hm
  cases hm with
  | select hj => rw [if_pos hj]; rfl
  | accept u hu hj => exact absurd hj (ha u hu)
  | snoop he =>
    rw [if_neg fun hj => absurd (he.symm.trans (rsSelect_ready hj)) (by simp)]
    exact occupant_slotStateOf _ _ _ (by rw [he]; simp)
  | keep _ hs => rw [if_neg hs]

/-- The slots after the tick, and the record selected, hold what the slots did and the record accepted. -/
theorem slots_perm (h : PlainTick f s t) :
    ((heldBy fun j : RsIdx => (t.rs.slot[j]).holds) ++ (t.rs.dispatch.map DispatchLatch.rob).toList).Perm
      ((heldBy fun j : RsIdx => (s.rs.slot[j]).holds) ++ ((rsAccepting s).map IssueLatch.rob).toList) := by
  have selected : t.rs.dispatch.map DispatchLatch.rob = (rsSelect s.rs).bind fun j => (s.rs.slot[j]).holds := by
    rw [h.dispatch]
    cases hj : rsSelect s.rs with
    | none => rfl
    | some j =>
      exact (occupant_of_ne (by rw [rsSelect_ready hj]; simp)).symm
  rw [selected]
  cases hu : rsAccepting s with
  | none => exact heldBy_move (into := none) (by simp) fun j _ => h.slot_holds_of_not_accept (by simp [hu])
  | some u =>
    obtain ⟨j, hj⟩ := noFault_rsAccept h.noFault h.noFlush hu
    refine heldBy_move (into := some (j, u.rob)) (fun k x e => ?_) fun k hk => ?_
    · cases e
      exact ⟨occupant_of_empty (rsFirstEmpty_empty hj), h.slot_holds_of_accept hu hj⟩
    · refine h.slot_holds_of_not_accept fun _ _ hj' => hk u.rob ?_
      rw [← Option.some.inj (hj.symm.trans hj')]

end PlainTick

/-! ### The ALU path: the slots, the dispatch latch, the output latch (R119, R132) -/

theorem aluHolds_eq (s : State) :
    aluHolds s = (heldBy fun j : RsIdx => (s.rs.slot[j]).holds) ++ (s.rs.dispatch.map DispatchLatch.rob).toList ++
      (s.alu.out.map AluOut.rob).toList := by
  rw [aluHolds, map_filter_toList_eq_heldBy]
  cases s.rs.dispatch <;> cases s.alu.out <;> rfl

/-- R132: the record in the dispatch latch goes to the output latch. -/
theorem PlainTick.alu_out {f : Fetched} {s t : State} (h : PlainTick f s t) :
    t.alu.out.map AluOut.rob = s.rs.dispatch.map DispatchLatch.rob := by
  rw [h.alu]
  simp only [aluNext, h.noFlush, Bool.false_eq_true, if_false]
  cases hd : s.rs.dispatch with
  | none => rfl
  | some d =>
    obtain ⟨r, hr⟩ := noFault_aluResult h.noFault h.noFlush hd
    simp [aluNextOut, hr]

/-- R101: in a plain tick the output latch's record leaves the ALU path and the record accepted enters it. -/
theorem PlainTick.aluHolds_perm {f : Fetched} {s t : State} (h : PlainTick f s t) :
    (aluHolds t ++ (s.alu.out.map AluOut.rob).toList).Perm
      (aluHolds s ++ ((rsAccepting s).map IssueLatch.rob).toList) := by
  rw [aluHolds_eq, aluHolds_eq, h.alu_out, List.perm_iff_count]
  intro i
  have := h.slots_perm.count_eq i
  simp only [List.count_append] at this ⊢
  omega

/-! ### The Load/Store Queue (R124 to R128) -/

/-- What entry `j` can become in a plain tick. -/
inductive LsqMove (s : State) (j : LsqIdx) : LsqEntry → Prop
  | dispatch (hd : lsqDispatches s = true) (hj : j = s.lsq.head) (he : (s.lsq.entry[j]).state = .ready) :
    LsqMove s j LsqEntry.empty
  | accept (u : IssueLatch) (hu : lsqAccepting s = some u) (hj : j = s.lsq.tail)
      (he : (s.lsq.entry[j]).state = .empty) : LsqMove s j (lsqAccepted s u)
  | snoop (he : (s.lsq.entry[j]).state = .awaitingOperands) : LsqMove s j (lsqSnooped s s.lsq.entry[j])
  | keep (he : (s.lsq.entry[j]).state ≠ .awaitingOperands) (hd : lsqDispatches s = true → j ≠ s.lsq.head)
      (ha : ∀ u, lsqAccepting s = some u → j ≠ s.lsq.tail) : LsqMove s j s.lsq.entry[j]

/-- What an entry holds. -/
def LsqEntry.holds (e : LsqEntry) : Option RobIdx := occupant e.state e.rob

theorem lsqAccepting_eq_some {s : State} {u : IssueLatch} :
    lsqAccepting s = some u ↔ s.csu.issue = some u ∧ u.unit = .lsq := by
  unfold lsqAccepting
  cases s.csu.issue with
  | none => simp
  | some q => exact ite_some_eq_some (p := fun v : IssueLatch => v.unit = .lsq)

theorem lsqDispatches_iff {s : State} :
    lsqDispatches s = true ↔ 0 < s.lsq.count ∧ (s.lsq.entry[s.lsq.head]).state = .ready ∧ s.mem.state = .free ∧
      s.lsq.req = none := by
  simp [lsqDispatches, lsqHead, and_assoc]

theorem lsqWaiting_of_ne {s : State} {e : LsqEntry} (h : e.state ≠ .awaitingOperands) : lsqWaiting s e = e := by
  unfold lsqWaiting
  split <;> simp_all

theorem lsqWaiting_of_awaiting {s : State} {e : LsqEntry} (h : e.state = .awaitingOperands) :
    lsqWaiting s e = lsqSnooped s e := by
  simp [lsqWaiting, h]

/-- R30, R106: there is room for a record on its way to the LSQ, so the tail entry is Empty. -/
theorem PipelineInv.lsqTail_empty {s : State} (hi : PipelineInv s) {u : IssueLatch} (hu : lsqAccepting s = some u) :
    (s.lsq.entry[s.lsq.tail]).state = .empty := by
  obtain ⟨hu, hl⟩ := lsqAccepting_eq_some.1 hu
  by_contra he
  have hlive := (hi.lsqOccupied s.lsq.tail).1 he
  have hroom := hi.roomLsq u hu hl
  have htail := hi.lsqTail
  have := s.lsq.head.isLt
  simp only [lsqLive, decide_eq_true_eq, lsqSize] at hlive hroom htail this
  omega

theorem PipelineInv.lsqEntryNext_move {s : State} (hi : PipelineInv s) (hf : s.csu.flushReq = false) (j : LsqIdx) :
    LsqMove s j (lsqEntryNext s j) := by
  simp only [lsqEntryNext, hf, Bool.false_eq_true, if_false]
  split
  next hd =>
    simp only [Bool.and_eq_true, beq_iff_eq] at hd
    obtain ⟨hd, rfl⟩ := hd
    exact .dispatch hd rfl (lsqDispatches_iff.1 hd).2.1
  next hd =>
    have hd' : lsqDispatches s = true → j ≠ s.lsq.head := by simpa using hd
    have rest (ha : ∀ u, lsqAccepting s = some u → j ≠ s.lsq.tail) : LsqMove s j (lsqWaiting s s.lsq.entry[j]) := by
      by_cases he : (s.lsq.entry[j]).state = .awaitingOperands
      · rw [lsqWaiting_of_awaiting he]; exact .snoop he
      · rw [lsqWaiting_of_ne he]; exact .keep he hd' ha
    split
    next u hu =>
      split
      next hj => subst hj; exact .accept u hu rfl (hi.lsqTail_empty hu)
      next hj => exact rest fun _ _ => hj
    next hu => exact rest fun u h => absurd (hu.symm.trans h) (by simp)

namespace PlainTick

variable {f : Fetched} {s t : State}

theorem lsqEntry (h : PlainTick f s t) (hi : PipelineInv s) (j : LsqIdx) : LsqMove s j t.lsq.entry[j] := by
  rw [h.lsq, lsqNext_entry_get]
  exact hi.lsqEntryNext_move h.noFlush j

theorem req (h : PlainTick f s t) :
    t.lsq.req = if lsqDispatches s then some (lsqRequest s.lsq.entry[s.lsq.head]) else none := by
  rw [h.lsq, lsqNext_req]
  simp only [lsqReqNext, h.noFlush, Bool.false_eq_true, if_false]
  rfl

theorem lsqEntry_holds_of_accept (h : PlainTick f s t) (hi : PipelineInv s) {u : IssueLatch}
    (hu : lsqAccepting s = some u) : (t.lsq.entry[s.lsq.tail]).holds = some u.rob := by
  have he := hi.lsqTail_empty hu
  have hm := h.lsqEntry hi s.lsq.tail
  generalize t.lsq.entry[s.lsq.tail] = e at hm
  cases hm with
  | dispatch _ _ hr => exact absurd (he.symm.trans hr) (by simp)
  | accept v hv =>
    rw [hu] at hv
    cases hv
    exact occupant_of_ne (slotStateOf_ne_empty _ _)
  | snoop hw => exact absurd (he.symm.trans hw) (by simp)
  | keep _ _ ha => exact absurd rfl (ha u hu)

theorem lsqEntry_holds_of_not_accept (h : PlainTick f s t) (hi : PipelineInv s) {j : LsqIdx}
    (ha : ∀ u, lsqAccepting s = some u → j ≠ s.lsq.tail) :
    (t.lsq.entry[j]).holds =
      if (if lsqDispatches s then some s.lsq.head else none) = some j then none else (s.lsq.entry[j]).holds := by
  have hm := h.lsqEntry hi j
  generalize t.lsq.entry[j] = e at hm
  simp only [Option.ite_none_right_eq_some, Option.some.injEq]
  cases hm with
  | dispatch hd hj => rw [if_pos ⟨hd, hj.symm⟩]; rfl
  | accept u hu hj => exact absurd hj (ha u hu)
  | snoop he =>
    rw [if_neg]
    · exact occupant_slotStateOf _ _ _ (by rw [he]; simp)
    · rintro ⟨hd, rfl⟩
      exact absurd (he.symm.trans (lsqDispatches_iff.1 hd).2.1) (by simp)
  | keep _ hd => rw [if_neg fun ⟨hd', hj⟩ => hd hd' hj.symm]

/-- The entries after the tick, and the request formed, hold what the entries did and the record accepted. -/
theorem lsqEntries_perm (h : PlainTick f s t) (hi : PipelineInv s) :
    ((heldBy fun j : LsqIdx => (t.lsq.entry[j]).holds) ++ (t.lsq.req.map MemRequest.rob).toList).Perm
      ((heldBy fun j : LsqIdx => (s.lsq.entry[j]).holds) ++ ((lsqAccepting s).map IssueLatch.rob).toList) := by
  have dispatched : t.lsq.req.map MemRequest.rob =
      (if lsqDispatches s then some s.lsq.head else none).bind fun j => (s.lsq.entry[j]).holds := by
    rw [h.req]
    split
    next hd =>
      exact (occupant_of_ne (by rw [(lsqDispatches_iff.1 hd).2.1]; simp)).symm
    next => rfl
  rw [dispatched]
  cases hu : lsqAccepting s with
  | none => exact heldBy_move (into := none) (by simp) fun j _ => h.lsqEntry_holds_of_not_accept hi (by simp [hu])
  | some u =>
    refine heldBy_move (into := some (s.lsq.tail, u.rob)) (fun k x e => ?_) fun k hk => ?_
    · cases e
      exact ⟨occupant_of_empty (hi.lsqTail_empty hu), h.lsqEntry_holds_of_accept hi hu⟩
    · exact h.lsqEntry_holds_of_not_accept hi fun _ _ hj => hk u.rob (by rw [hj])

end PlainTick

/-! ### The memory path: the entries, the request latch, the pending request, the result latch (R126, R50 to R52) -/

theorem memHolds_eq (s : State) :
    memHolds s = (heldBy fun j : LsqIdx => (s.lsq.entry[j]).holds) ++ (s.lsq.req.map MemRequest.rob).toList ++
      (s.mem.pending.map MemRequest.rob).toList ++ (s.mem.out.map MemOut.rob).toList := by
  rw [memHolds, map_filter_toList_eq_heldBy]
  cases s.lsq.req <;> cases s.mem.pending <;> cases s.mem.out <;> rfl

/-- R50 to R52: the request on its way is accepted by a Free Memory, and the one performed publishes its result. -/
theorem PlainTick.pending_out {f : Fetched} {s t : State} (h : PlainTick f s t) (hi : PipelineInv s) :
    (t.mem.pending.map MemRequest.rob).toList ++ (t.mem.out.map MemOut.rob).toList =
      (s.lsq.req.map MemRequest.rob).toList ++ (s.mem.pending.map MemRequest.rob).toList := by
  rw [h.mem, memNext_pending, memNext_out]
  simp only [memPendingNext, memOutNext, memPerforming, h.noFlush, Bool.false_eq_true, if_false]
  cases hs : s.mem.state with
  | free => simp [hi.memFree.1 hs]
  | busy1 => simp [noFault_memBusy h.noFault h.noFlush (hs.trans_ne (by simp))]
  | busy2 =>
    rw [noFault_memBusy h.noFault h.noFlush (hs.trans_ne (by simp))]
    cases s.mem.pending <;> rfl

/-- R101: in a plain tick the result latch's record leaves the memory path and the record accepted enters it. -/
theorem PlainTick.memHolds_perm {f : Fetched} {s t : State} (h : PlainTick f s t) (hi : PipelineInv s) :
    (memHolds t ++ (s.mem.out.map MemOut.rob).toList).Perm
      (memHolds s ++ ((lsqAccepting s).map IssueLatch.rob).toList) := by
  rw [memHolds_eq, memHolds_eq, List.append_assoc _ (t.mem.pending.map _).toList, h.pending_out hi,
    List.perm_iff_count]
  intro i
  have := (h.lsqEntries_perm hi).count_eq i
  simp only [List.count_append] at this ⊢
  omega

end Sys2Proof.Machine
end

section
/-! The ROB after a plain tick, and its entries in flight: its ring (R24), the Issued entry (R102), and that each path
holds the Executing entries of its unit (R101). -/

namespace Sys2Proof.Machine

theorem aluOut_mem {s : State} {o : AluOut} (ho : s.alu.out = some o) : o.rob ∈ aluHolds s := by simp [aluHolds, ho]

theorem memOut_mem {s : State} {o : MemOut} (ho : s.mem.out = some o) : o.rob ∈ memHolds s := by simp [memHolds, ho]

/-- The record on its way into a unit's path is that of the Issued entry, which no path holds yet. -/
theorem PipelineInv.issued_of_issue {s : State} (hi : PipelineInv s) {u : IssueLatch} (hu : s.csu.issue = some u) :
    (s.csu.rob[u.rob]).state = .issued ∧ (s.csu.rob[u.rob]).cls.unit = u.unit := by
  obtain ⟨hs, hc, hunit⟩ := hi.issueEntry u hu
  exact ⟨hs, by rw [hc, hunit]⟩

/-- The two paths hold no entry in common: their units differ. -/
theorem PipelineInv.not_mem_both {s : State} (hi : PipelineInv s) {i : RobIdx} (ha : i ∈ aluHolds s)
    (hm : i ∈ memHolds s) : False := by
  have := ((hi.aluEntries i).1 ha).2.symm.trans ((hi.memEntries i).1 hm).2
  cases this

namespace PlainTick

variable {f : Fetched} {s t : State}

/-! ### The ROB's ring (R24) -/

theorem rob_occupied_iff (h : PlainTick f s t) (i : RobIdx) :
    (t.csu.rob[i]).state ≠ .empty ↔
      ((s.csu.commits = true → i ≠ s.csu.robHead) ∧ (s.csu.rob[i]).state ≠ .empty) ∨
        ((issuing Config.core s f).isSome = true ∧ i = s.csu.robTail) := by
  have notHead {st : RobState} (he : (s.csu.rob[i]).state = st) (hst : st ≠ .readyToCommit) :
      s.csu.commits = true → i ≠ s.csu.robHead := by
    rintro hc rfl
    exact hst (he.symm.trans ((commits_iff _).1 hc).2)
  have hm := h.rob i
  generalize t.csu.rob[i] = e at hm
  cases hm with
  | commit hc hi he =>
    refine iff_of_false (· rfl) ?_
    rintro (⟨hn, -⟩ | ⟨hs, ht⟩)
    · exact hn hc hi
    · obtain ⟨r, hr⟩ := Option.isSome_iff_exists.1 hs
      rw [ht, h.tail_empty_of_issuing hr] at he
      cases he
  | aluDone o _ _ he => exact iff_of_true (by simp [completedByAlu]) (.inl ⟨notHead he (by simp), by rw [he]; simp⟩)
  | memDone o _ _ he => exact iff_of_true (by simp [completedByMem]) (.inl ⟨notHead he (by simp), by rw [he]; simp⟩)
  | issue r hr hi => exact iff_of_true (by simp [allocated]) (.inr ⟨by simp [hr], hi⟩)
  | start he => exact iff_of_true (by simp) (.inl ⟨notHead he (by simp), by rw [he]; simp⟩)
  | keep _ hc _ _ ht =>
    exact ⟨fun he => .inl ⟨hc, he⟩, fun hor => hor.elim And.right fun ⟨hs, hi⟩ => absurd hi (ht hs)⟩

theorem pointersOk (h : PlainTick f s t) : t.csu.pointersOk = true := by
  obtain ⟨hcount, htail, hlive⟩ := (pointersOk_iff _).1 (noFault_pointers h.noFault)
  have pop : s.csu.commits = true → 0 < s.csu.robCount := fun hc => ((commits_iff _).1 hc).1
  have push : (issuing Config.core s f).isSome = true → s.csu.robCount < robSize := fun hs => by
    obtain ⟨r, hr⟩ := Option.isSome_iff_exists.1 hs
    exact (issuing_some hr).2.2.1
  have count : t.csu.robCount = robCountNext Config.core s f := by rw [h.csu, csuNext_robCount _ _ h.noFlush]
  have head : t.csu.robHead = if s.csu.commits then s.csu.robHead + 1 else s.csu.robHead := by
    rw [h.csu, csuNext_robHead _ _ h.noFlush]
  have tail : t.csu.robTail = if (issuing Config.core s f).isSome then s.csu.robTail + 1 else s.csu.robTail := by
    rw [h.csu, csuNext_robTail _ _ h.noFlush]
  refine (pointersOk_iff _).2 ⟨?_, ?_, fun i => ?_⟩
  · rw [count, robCountNext]
    exact ring_count_step push hcount
  · rw [count, head, tail]
    exact ring_tail_step htail pop
  · rw [h.rob_occupied_iff, hlive, Csu.live, Csu.live, decide_eq_true_eq, decide_eq_true_eq, count, head]
    exact (ring_live_step htail pop push hcount i).symm

/-! ### The entries in flight (R101, R102) -/

theorem rob_issued (h : PlainTick f s t) {i : RobIdx} (hi : (t.csu.rob[i]).state = .issued) :
    ∃ r, issuing Config.core s f = some r ∧ i = s.csu.robTail ∧ t.csu.rob[i] = allocated Config.core s.csu.specPc r := by
  have hm := h.rob i
  generalize t.csu.rob[i] = e at hm hi ⊢
  cases hm with
  | commit | aluDone | memDone | start => cases hi
  | issue r hr ht => exact ⟨r, hr, ht, rfl⟩
  | keep he => exact absurd hi he

/-- R108: the entry allocated is at the tail, which no other part of the step stages. -/
theorem rob_tail_of_issuing (h : PlainTick f s t) {r : IssueReq} (hr : issuing Config.core s f = some r) :
    t.csu.rob[s.csu.robTail] = allocated Config.core s.csu.specPc r := by
  have he := h.tail_empty_of_issuing hr
  have hm := h.rob s.csu.robTail
  generalize t.csu.rob[s.csu.robTail] = e at hm
  cases hm with
  | commit _ _ he' => exact absurd (he.symm.trans he') (by simp)
  | aluDone _ _ _ he' => exact absurd (he.symm.trans he') (by simp)
  | memDone _ _ _ he' => exact absurd (he.symm.trans he') (by simp)
  | issue q hq => rw [Option.some.inj (hr.symm.trans hq)]
  | start he' => exact absurd (he.symm.trans he') (by simp)
  | keep _ _ _ _ ht => exact absurd rfl (ht (by simp [hr]))

theorem rob_executing_iff (h : PlainTick f s t) (i : RobIdx) :
    (t.csu.rob[i]).state = .executing ↔ (s.csu.rob[i]).state = .issued ∨
      ((s.csu.rob[i]).state = .executing ∧ (∀ o, s.alu.out = some o → o.rob ≠ i) ∧
        ∀ o, s.mem.out = some o → o.rob ≠ i) := by
  have hm := h.rob i
  generalize t.csu.rob[i] = e at hm
  cases hm with
  | commit _ _ he => rw [he]; simp [RobEntry.empty]
  | aluDone o ho hi he => rw [he]; simp [completedByAlu, ho, hi]
  | memDone o ho hi he => rw [he]; simp [completedByMem, ho, hi]
  | issue r _ _ he => rw [he]; simp [allocated]
  | start he => rw [he]; simp
  | keep he _ ha hm => exact ⟨fun hx => .inr ⟨hx, ha, hm⟩, fun hor => hor.elim (absurd · he) And.left⟩

/-- An entry in flight keeps its class. -/
theorem rob_cls (h : PlainTick f s t) {i : RobIdx}
    (hi : (s.csu.rob[i]).state = .issued ∨ (s.csu.rob[i]).state = .executing) :
    (t.csu.rob[i]).cls = (s.csu.rob[i]).cls := by
  have hm := h.rob i
  generalize t.csu.rob[i] = e at hm
  cases hm with
  | commit _ _ he => rw [he] at hi; simp at hi
  | issue _ _ _ he => rw [he] at hi; simp at hi
  | aluDone | memDone | start | keep => rfl

theorem issueEntry (h : PlainTick f s t) {u : IssueLatch} (hu : t.csu.issue = some u) :
    (t.csu.rob[u.rob]).state = .issued ∧ (t.csu.rob[u.rob]).cls = u.cls ∧ u.unit = u.cls.unit := by
  obtain ⟨r, hr, rfl⟩ := h.issue_eq_some.1 hu
  have := h.rob_tail_of_issuing hr
  exact ⟨congrArg RobEntry.state this, congrArg RobEntry.cls this, rfl⟩

theorem issuedOnly (h : PlainTick f s t) {i : RobIdx} (hi : (t.csu.rob[i]).state = .issued) :
    ∃ u, t.csu.issue = some u ∧ u.rob = i := by
  obtain ⟨r, hr, rfl, -⟩ := h.rob_issued hi
  exact ⟨_, h.issue_eq_some.2 ⟨r, hr, rfl⟩, rfl⟩

theorem commitGone (h : PlainTick f s t) {k : CommitLatch} (hk : t.csu.commit = some k) :
    (t.csu.rob[k.rob]).state = .empty := by
  obtain ⟨hc, rfl⟩ := h.commit_eq_some.1 hk
  by_contra he
  obtain ⟨hn, -⟩ | ⟨hs, ht⟩ := (h.rob_occupied_iff _).1 he
  · exact hn hc rfl
  · obtain ⟨r, hr⟩ := Option.isSome_iff_exists.1 hs
    exact head_ne_tail (noFault_pointers h.noFault) ((commits_iff _).1 hc).1 (issuing_some hr).2.2.1 ht

theorem flushNoIssue (h : PlainTick f s t) (hf : t.csu.flushReq = true) : t.csu.issue = none := by
  rw [h.csu, csuNext_flushReq _ _ h.noFlush] at hf
  rw [h.issue, Option.map_eq_none_iff, Option.eq_none_iff_forall_ne_some]
  intro r hr
  have := ((attempts_iff _).1 (issuing_some hr).2.1).2.1
  exact absurd (hf.symm.trans this) (by simp)

/-! ### The two paths (R101) -/

/-- A path that held the Executing entries of its unit still does, if the record that leaves is the one whose result is
broadcast. -/
theorem path_entries (h : PlainTick f s t) (hi : PipelineInv s) {unit : IssueUnit} {l l' : List RobIdx}
    {out : Option RobIdx} {into : Option IssueLatch}
    (hl : ∀ i, i ∈ l ↔ (s.csu.rob[i]).state = .executing ∧ (s.csu.rob[i]).cls.unit = unit)
    (hl' : ∀ i, i ∈ l' ↔ (i ∈ l ∧ out ≠ some i) ∨ into.map IssueLatch.rob = some i)
    (hinto : ∀ u, into = some u ↔ s.csu.issue = some u ∧ u.unit = unit)
    (hout : ∀ i ∈ l, out ≠ some i ↔
      (∀ o, s.alu.out = some o → o.rob ≠ i) ∧ ∀ o, s.mem.out = some o → o.rob ≠ i) (i : RobIdx) :
    i ∈ l' ↔ (t.csu.rob[i]).state = .executing ∧ (t.csu.rob[i]).cls.unit = unit := by
  rw [hl', h.rob_executing_iff]
  constructor
  · rintro (⟨hmem, hne⟩ | hnew)
    · obtain ⟨hx, hunit⟩ := (hl i).1 hmem
      exact ⟨.inr ⟨hx, (hout i hmem).1 hne⟩, by rw [h.rob_cls (.inr hx), hunit]⟩
    · obtain ⟨u, hu, rfl⟩ := Option.map_eq_some_iff.1 hnew
      obtain ⟨hu, rfl⟩ := (hinto u).1 hu
      obtain ⟨hs, hunit⟩ := hi.issued_of_issue hu
      exact ⟨.inl hs, by rw [h.rob_cls (.inl hs), hunit]⟩
  · rintro ⟨hs | ⟨hx, hdone⟩, hunit⟩
    · obtain ⟨u, hu, rfl⟩ := hi.issuedOnly i hs
      rw [h.rob_cls (.inl hs), (hi.issued_of_issue hu).2] at hunit
      exact .inr (Option.map_eq_some_iff.2 ⟨u, (hinto u).2 ⟨hu, hunit⟩, rfl⟩)
    · rw [h.rob_cls (.inr hx)] at hunit
      have hmem := (hl i).2 ⟨hx, hunit⟩
      exact .inl ⟨hmem, (hout i hmem).2 hdone⟩

theorem aluHolds_step (h : PlainTick f s t) (hi : PipelineInv s) :
    (aluHolds t).Nodup ∧ ∀ i, i ∈ aluHolds t ↔
      (i ∈ aluHolds s ∧ s.alu.out.map AluOut.rob ≠ some i) ∨ (rsAccepting s).map IssueLatch.rob = some i := by
  refine holds_step h.aluHolds_perm hi.aluNodup (fun i hout => ?_) fun i hinto hmem => ?_
  · obtain ⟨o, ho, rfl⟩ := Option.map_eq_some_iff.1 hout
    exact aluOut_mem ho
  · obtain ⟨u, hu, rfl⟩ := Option.map_eq_some_iff.1 hinto
    have hs := (hi.issued_of_issue (rsAccepting_eq_some.1 hu).1).1
    exact absurd (hs.symm.trans ((hi.aluEntries _).1 hmem).1) (by simp)

theorem memHolds_step (h : PlainTick f s t) (hi : PipelineInv s) :
    (memHolds t).Nodup ∧ ∀ i, i ∈ memHolds t ↔
      (i ∈ memHolds s ∧ s.mem.out.map MemOut.rob ≠ some i) ∨ (lsqAccepting s).map IssueLatch.rob = some i := by
  refine holds_step (h.memHolds_perm hi) hi.memNodup (fun i hout => ?_) fun i hinto hmem => ?_
  · obtain ⟨o, ho, rfl⟩ := Option.map_eq_some_iff.1 hout
    exact memOut_mem ho
  · obtain ⟨u, hu, rfl⟩ := Option.map_eq_some_iff.1 hinto
    have hs := (hi.issued_of_issue (lsqAccepting_eq_some.1 hu).1).1
    exact absurd (hs.symm.trans ((hi.memEntries _).1 hmem).1) (by simp)

theorem aluEntries (h : PlainTick f s t) (hi : PipelineInv s) (i : RobIdx) :
    i ∈ aluHolds t ↔ (t.csu.rob[i]).state = .executing ∧ (t.csu.rob[i]).cls.unit = .rs := by
  refine h.path_entries hi hi.aluEntries (h.aluHolds_step hi).2 (fun _ => rsAccepting_eq_some) (fun i hmem => ?_) i
  simp only [ne_eq, Option.map_eq_some_iff, not_exists, not_and]
  have apart : ∀ o, s.mem.out = some o → o.rob ≠ i := fun o ho e => hi.not_mem_both hmem (e ▸ memOut_mem ho)
  exact (and_iff_left apart).symm

theorem memEntries (h : PlainTick f s t) (hi : PipelineInv s) (i : RobIdx) :
    i ∈ memHolds t ↔ (t.csu.rob[i]).state = .executing ∧ (t.csu.rob[i]).cls.unit = .lsq := by
  refine h.path_entries hi hi.memEntries (h.memHolds_step hi).2 (fun _ => lsqAccepting_eq_some) (fun i hmem => ?_) i
  simp only [ne_eq, Option.map_eq_some_iff, not_exists, not_and]
  have apart : ∀ o, s.alu.out = some o → o.rob ≠ i := fun o ho e => hi.not_mem_both (e ▸ aluOut_mem ho) hmem
  exact (and_iff_right apart).symm

end PlainTick

end Sys2Proof.Machine
end

section
/-! The pipeline invariant is kept: the records' classes and states, the LSQ's ring, the room for the record in the
issue latch, Memory's protocol and the jalr stall after a plain tick; and all of it together. -/

namespace Sys2Proof.Machine

/-- R163, R107: issue waits for the target of every jalr. -/
theorem issueReqOf_guess_of_jalr {i : Instr} (h : (issueReqOf i).cls = .jalr) : (issueReqOf i).guess = .wait := by
  cases i <;> cases h
  rfl

theorem acceptPending_rs (s : State) : acceptPending s .rs = if (rsAccepting s).isSome then 1 else 0 := by
  unfold acceptPending rsAccepting
  cases s.csu.issue with
  | none => rfl
  | some u => by_cases hu : u.unit = .rs <;> simp [hu]

theorem acceptPending_lsq (s : State) : acceptPending s .lsq = if (lsqAccepting s).isSome then 1 else 0 := by
  unfold acceptPending lsqAccepting
  cases s.csu.issue with
  | none => rfl
  | some u => by_cases hu : u.unit = .lsq <;> simp [hu]

/-- R126: what is dispatched is in the queue. -/
theorem lsqCount_pos_of_dispatches {s : State} (hd : lsqDispatches s = true) : 0 < s.lsq.count :=
  (lsqDispatches_iff.1 hd).1

namespace PipelineInv

variable {s : State}

/-! ### What the invariant says of the tick before it is taken (R28 to R30, R106, R112) -/

theorem slot_executing (hi : PipelineInv s) {j : RsIdx} (hj : (s.rs.slot[j]).state ≠ .empty) :
    (s.csu.rob[(s.rs.slot[j]).rob]).state = .executing := by
  refine ((hi.aluEntries _).1 ?_).1
  rw [aluHolds_eq]
  simp only [List.mem_append, heldBy, List.mem_filterMap]
  exact .inl (.inl ⟨j, List.mem_finRange j, occupant_of_ne hj⟩)

theorem lsqEntry_executing (hi : PipelineInv s) {j : LsqIdx} (hj : (s.lsq.entry[j]).state ≠ .empty) :
    (s.csu.rob[(s.lsq.entry[j]).rob]).state = .executing ∧ (s.csu.rob[(s.lsq.entry[j]).rob]).cls.unit = .lsq := by
  refine (hi.memEntries _).1 ?_
  rw [memHolds_eq]
  simp only [List.mem_append, heldBy, List.mem_filterMap]
  exact .inl (.inl (.inl ⟨j, List.mem_finRange j, occupant_of_ne hj⟩))

/-- R127: the request of an entry in the LSQ is valid. -/
theorem request_valid (hi : PipelineInv s) {j : LsqIdx} (hj : (s.lsq.entry[j]).state ≠ .empty) :
    requestValid (lsqRequest s.lsq.entry[j]).type = true := by
  have hunit := (hi.lsqEntry_executing hj).2
  rw [← hi.lsqClass j hj, ← accessWidth_isSome] at hunit
  obtain ⟨w, hw⟩ := Option.isSome_iff_exists.1 hunit
  exact (requestType_valid hw).1

theorem state_of_slotMove (hi : PipelineInv s) {j : RsIdx} {e : RsSlot} (hm : SlotMove s j e)
    (hj : e.state ≠ .empty) : e.state = slotStateOf e.op1 e.op2 := by
  cases hm with
  | select => exact absurd rfl hj
  | accept | snoop => rfl
  | keep => exact hi.slotState j hj

theorem state_of_lsqMove (hi : PipelineInv s) {j : LsqIdx} {e : LsqEntry} (hm : LsqMove s j e)
    (hj : e.state ≠ .empty) : e.state = slotStateOf e.op1 e.op2 := by
  cases hm with
  | dispatch => exact absurd rfl hj
  | accept | snoop => rfl
  | keep => exact hi.lsqState j hj

/-- R106: there is room for the record that the LSQ accepts. -/
theorem lsqCount_lt (hi : PipelineInv s) (ha : (lsqAccepting s).isSome = true) : s.lsq.count < lsqSize := by
  obtain ⟨u, hu⟩ := Option.isSome_iff_exists.1 ha
  obtain ⟨hu, hunit⟩ := lsqAccepting_eq_some.1 hu
  exact hi.roomLsq u hu hunit

/-- Nothing is issued while a jalr is unresolved. -/
theorem not_issuing_of_jalr (hi : PipelineInv s) {f : Fetched} {i : RobIdx}
    (hj : jalrUnresolved s.csu.rob[i]) {r : IssueReq} (hr : issuing Config.core s f = some r) : False := by
  have hw := ((attempts_iff _).1 (issuing_some hr).2.1).2.2
  exact absurd (hw.symm.trans (hi.jalrStalls i hj)) (by simp)

end PipelineInv

namespace PlainTick

variable {f : Fetched} {s t : State}

/-! ### The classes of the records (R28 to R30) -/

theorem cls_of_slotMove (h : PlainTick f s t) (hi : PipelineInv s) {j : RsIdx} {e : RsSlot} (hm : SlotMove s j e)
    (hj : e.state ≠ .empty) : e.cls = (t.csu.rob[e.rob]).cls := by
  have kept (he : (s.rs.slot[j]).state ≠ .empty) :
      (s.rs.slot[j]).cls = (t.csu.rob[(s.rs.slot[j]).rob]).cls := by
    rw [h.rob_cls (.inr (hi.slot_executing he)), hi.slotClass j he]
  cases hm with
  | select => exact absurd rfl hj
  | accept u hu =>
    obtain ⟨hs, hc, -⟩ := hi.issueEntry u (rsAccepting_eq_some.1 hu).1
    exact hc.symm.trans (h.rob_cls (.inl hs)).symm
  | snoop he => exact kept (by rw [he]; simp)
  | keep => exact kept hj

theorem dispatchClass (h : PlainTick f s t) (hi : PipelineInv s) {d : DispatchLatch} (hd : t.rs.dispatch = some d) :
    d.cls = (t.csu.rob[d.rob]).cls := by
  rw [h.dispatch] at hd
  obtain ⟨j, hj, rfl⟩ := Option.map_eq_some_iff.1 hd
  have he : (s.rs.slot[j]).state ≠ .empty := by rw [rsSelect_ready hj]; simp
  exact (hi.slotClass j he).trans (h.rob_cls (.inr (hi.slot_executing he))).symm

theorem cls_of_lsqMove (h : PlainTick f s t) (hi : PipelineInv s) {j : LsqIdx} {e : LsqEntry} (hm : LsqMove s j e)
    (hj : e.state ≠ .empty) : e.cls = (t.csu.rob[e.rob]).cls := by
  have kept (he : (s.lsq.entry[j]).state ≠ .empty) :
      (s.lsq.entry[j]).cls = (t.csu.rob[(s.lsq.entry[j]).rob]).cls := by
    rw [h.rob_cls (.inr (hi.lsqEntry_executing he).1), hi.lsqClass j he]
  cases hm with
  | dispatch => exact absurd rfl hj
  | accept u hu =>
    obtain ⟨hs, hc, -⟩ := hi.issueEntry u (lsqAccepting_eq_some.1 hu).1
    exact hc.symm.trans (h.rob_cls (.inl hs)).symm
  | snoop he => exact kept (by rw [he]; simp)
  | keep => exact kept hj

/-! ### The LSQ's ring (R30, R126, R128) -/

theorem lsq_count (h : PlainTick f s t) :
    t.lsq.count =
      s.lsq.count - (if lsqDispatches s then 1 else 0) + (if (lsqAccepting s).isSome then 1 else 0) := by
  simp [h.lsq, lsqNext, h.noFlush]

theorem lsq_head (h : PlainTick f s t) :
    t.lsq.head = if lsqDispatches s then s.lsq.head + 1 else s.lsq.head := by
  simp [h.lsq, lsqNext, h.noFlush]

theorem lsq_tail (h : PlainTick f s t) :
    t.lsq.tail = if (lsqAccepting s).isSome then s.lsq.tail + 1 else s.lsq.tail := by
  simp [h.lsq, lsqNext, h.noFlush]

theorem lsq_occupied_iff (h : PlainTick f s t) (hi : PipelineInv s) (j : LsqIdx) :
    (t.lsq.entry[j]).state ≠ .empty ↔
      ((lsqDispatches s = true → j ≠ s.lsq.head) ∧ (s.lsq.entry[j]).state ≠ .empty) ∨
        ((lsqAccepting s).isSome = true ∧ j = s.lsq.tail) := by
  have hm := h.lsqEntry hi j
  generalize t.lsq.entry[j] = e at hm
  cases hm with
  | dispatch hd hj he =>
    refine iff_of_false (· rfl) ?_
    rintro (⟨hn, -⟩ | ⟨hs, rfl⟩)
    · exact hn hd hj
    · obtain ⟨u, hu⟩ := Option.isSome_iff_exists.1 hs
      exact absurd (he.symm.trans (hi.lsqTail_empty hu)) (by simp)
  | accept u hu hj => exact iff_of_true (slotStateOf_ne_empty _ _) (.inr ⟨by simp [hu], hj⟩)
  | snoop he =>
    refine iff_of_true (slotStateOf_ne_empty _ _) (.inl ⟨?_, by rw [he]; simp⟩)
    rintro hd rfl
    exact absurd (he.symm.trans (lsqDispatches_iff.1 hd).2.1) (by simp)
  | keep _ hd ha =>
    refine ⟨fun he => .inl ⟨hd, he⟩, fun hor => hor.elim And.right fun ⟨hs, hj⟩ => ?_⟩
    obtain ⟨u, hu⟩ := Option.isSome_iff_exists.1 hs
    exact absurd hj (ha u hu)

theorem lsqCount_le (h : PlainTick f s t) (hi : PipelineInv s) : t.lsq.count ≤ lsqSize := by
  rw [h.lsq_count]
  exact ring_count_step hi.lsqCount_lt hi.lsqCount

theorem lsqOccupied (h : PlainTick f s t) (hi : PipelineInv s) (j : LsqIdx) :
    (t.lsq.entry[j]).state ≠ .empty ↔ lsqLive t.lsq j = true := by
  rw [h.lsq_occupied_iff hi, hi.lsqOccupied, lsqLive, lsqLive, decide_eq_true_eq, decide_eq_true_eq, h.lsq_count,
    h.lsq_head]
  exact (ring_live_step hi.lsqTail lsqCount_pos_of_dispatches hi.lsqCount_lt hi.lsqCount j).symm

/-! ### Room for the record in the issue latch (R106) -/

/-- The unit has a place for the record issued beside the one it accepts in this tick. -/
theorem room (h : PlainTick f s t) {u : IssueLatch} (hu : t.csu.issue = some u) :
    acceptPending s u.unit + 1 ≤ unitFree Config.core s u.unit := by
  obtain ⟨r, hr, rfl⟩ := h.issue_eq_some.1 hu
  exact (issuing_some hr).2.2.2

/-- An Empty slot stays so unless it is the one accepted into. -/
theorem slot_stays_empty (h : PlainTick f s t) {j : RsIdx} (hj : (s.rs.slot[j]).state = .empty)
    (ha : ∀ u, rsAccepting s = some u → rsFirstEmpty s.rs ≠ some j) : (t.rs.slot[j]).state = .empty := by
  have hm := h.slot j
  generalize t.rs.slot[j] = e at hm
  cases hm with
  | select => rfl
  | accept u hu hj' => exact absurd hj' (ha u hu)
  | snoop he => exact absurd (hj.symm.trans he) (by simp)
  | keep => exact hj

theorem roomRs (h : PlainTick f s t) {u : IssueLatch} (hu : t.csu.issue = some u) (hrs : u.unit = .rs) :
    ∃ j : RsIdx, (t.rs.slot[j]).state = .empty := by
  have room := h.room hu
  rw [hrs, acceptPending_rs, unitFree, rsFree] at room
  cases ha : rsAccepting s with
  | none =>
    obtain ⟨j, hj⟩ := exists_of_countP_pos (v := s.rs.slot) (p := (·.state == .empty)) (by omega)
    exact ⟨j, h.slot_stays_empty (by simpa using hj) (by simp [ha])⟩
  | some v =>
    obtain ⟨k, hk⟩ := noFault_rsAccept h.noFault h.noFlush ha
    obtain ⟨j, hjk, hj⟩ := exists_ne_of_two_le_countP (v := s.rs.slot) (p := (·.state == .empty))
      (by simpa [ha] using room) k
    exact ⟨j, h.slot_stays_empty (by simpa using hj) fun _ _ hj' => hjk (Option.some.inj (hj'.symm.trans hk))⟩

theorem roomLsq (h : PlainTick f s t) {u : IssueLatch} (hu : t.csu.issue = some u) (hlsq : u.unit = .lsq) :
    t.lsq.count < lsqSize := by
  have room := h.room hu
  rw [hlsq, acceptPending_lsq, unitFree, lsqFree, show Config.core.lsqSize = lsqSize from rfl] at room
  rw [h.lsq_count]
  omega

/-! ### Memory's protocol (R50 to R52, R126) -/

theorem mem_state (h : PlainTick f s t) : t.mem.state = memStateNext s := by rw [h.mem]; rfl

theorem mem_pending (h : PlainTick f s t) : t.mem.pending = memPendingNext s := by rw [h.mem]; rfl

theorem memFree (h : PlainTick f s t) (hi : PipelineInv s) : t.mem.state = .free ↔ t.mem.pending = none := by
  rw [h.mem_state, h.mem_pending]
  simp only [memStateNext, memPendingNext, h.noFlush, Bool.false_eq_true, if_false]
  cases hs : s.mem.state with
  | free => cases s.lsq.req <;> simp
  | busy1 => simp [← hi.memFree, hs]
  | busy2 => simp

theorem req_eq_some (h : PlainTick f s t) {r : MemRequest} :
    t.lsq.req = some r ↔ lsqDispatches s = true ∧ r = lsqRequest s.lsq.entry[s.lsq.head] := by
  rw [h.req, Option.ite_none_right_eq_some, Option.some.injEq, eq_comm (b := r)]

theorem reqFree (h : PlainTick f s t) (hi : PipelineInv s) {r : MemRequest} (hr : t.lsq.req = some r) :
    t.mem.state = .free ∧ requestValid r.type = true := by
  obtain ⟨hd, rfl⟩ := h.req_eq_some.1 hr
  obtain ⟨-, hready, hfree, hnone⟩ := lsqDispatches_iff.1 hd
  refine ⟨?_, hi.request_valid (by rw [hready]; simp)⟩
  rw [h.mem_state]
  simp [memStateNext, h.noFlush, hfree, hnone]

theorem pendingValid (h : PlainTick f s t) (hi : PipelineInv s) {r : MemRequest} (hr : t.mem.pending = some r) :
    requestValid r.type = true := by
  rw [h.mem_pending] at hr
  simp only [memPendingNext, h.noFlush, Bool.false_eq_true, if_false] at hr
  split at hr
  · exact (hi.reqFree r hr).2
  · exact hi.pendingValid r hr
  · cases hr

/-! ### The jalr stall (R22, R112) -/

/-- A jalr is unresolved after the tick if it is the one issued, or was and its target is not broadcast. -/
theorem jalrUnresolved_cases (h : PlainTick f s t) {i : RobIdx} (hj : jalrUnresolved t.csu.rob[i]) :
    (i = s.csu.robTail ∧ ∃ r, issuing Config.core s f = some r ∧ r.cls = .jalr) ∨
      (jalrUnresolved s.csu.rob[i] ∧ ∀ o, s.alu.out = some o → o.rob ≠ i) := by
  obtain ⟨hc, hs | hx⟩ := hj
  · obtain ⟨r, hr, ht, he⟩ := h.rob_issued hs
    rw [he] at hc
    exact .inl ⟨ht, r, hr, hc⟩
  · obtain hs | ⟨hx, ha, -⟩ := (h.rob_executing_iff i).1 hx
    · rw [h.rob_cls (.inl hs)] at hc
      refine .inr ⟨⟨hc, .inl hs⟩, fun o ho e => ?_⟩
      subst e
      exact absurd (hs.symm.trans (noFault_aluOut h.noFault h.noFlush ho)) (by simp)
    · rw [h.rob_cls (.inr hx)] at hc
      exact .inr ⟨⟨hc, .inr hx⟩, ha⟩

theorem jalrStalls (h : PlainTick f s t) (hi : PipelineInv s) {i : RobIdx} (hj : jalrUnresolved t.csu.rob[i]) :
    t.csu.jalrWait = true := by
  rw [h.csu, csuNext_jalrWait _ _ h.noFlush, jalrWaitNext]
  obtain ⟨-, r, hr, hc⟩ | ⟨hj, ha⟩ := h.jalrUnresolved_cases hj
  · obtain ⟨n, rfl⟩ := h.decoded r (issuing_some hr).1
    simp [noFault_jalr h.noFault h.noFlush hr, hr, issueReqOf_guess_of_jalr hc]
  · have target : jalrCompletes s = none := by
      unfold jalrCompletes
      split
      next o ho =>
        rw [if_neg]
        intro hc
        exact ha o ho (hi.jalrUnique _ _ ⟨hc, .inr (noFault_aluOut h.noFault h.noFlush ho)⟩ hj)
      next => rfl
    have idle : issuing Config.core s f = none :=
      Option.eq_none_iff_forall_ne_some.2 fun r hr => hi.not_issuing_of_jalr hj hr
    simp [target, idle, hi.jalrStalls i hj]

theorem jalrUnique (h : PlainTick f s t) (hi : PipelineInv s) {i j : RobIdx} (hj : jalrUnresolved t.csu.rob[i])
    (hk : jalrUnresolved t.csu.rob[j]) : i = j := by
  obtain ⟨ht, r, hr, -⟩ | ⟨hj, -⟩ := h.jalrUnresolved_cases hj <;>
    obtain ⟨ht', r', hr', -⟩ | ⟨hk, -⟩ := h.jalrUnresolved_cases hk
  · rw [ht, ht']
  · exact (hi.not_issuing_of_jalr hk hr).elim
  · exact (hi.not_issuing_of_jalr hj hr').elim
  · exact hi.jalrUnique i j hj hk

/-! ### All together -/

theorem pipelineInv (h : PlainTick f s t) (hi : PipelineInv s) : PipelineInv t where
  pointers := h.pointersOk
  issueEntry _ := h.issueEntry
  issuedOnly _ := h.issuedOnly
  aluNodup := (h.aluHolds_step hi).1
  aluEntries := h.aluEntries hi
  memNodup := (h.memHolds_step hi).1
  memEntries := h.memEntries hi
  slotClass j := h.cls_of_slotMove hi (h.slot j)
  dispatchClass _ := h.dispatchClass hi
  lsqClass j := h.cls_of_lsqMove hi (h.lsqEntry hi j)
  slotState j := hi.state_of_slotMove (h.slot j)
  lsqState j := hi.state_of_lsqMove (h.lsqEntry hi j)
  lsqCount := h.lsqCount_le hi
  lsqTail := by rw [h.lsq_tail, h.lsq_head, h.lsq_count]; exact ring_tail_step hi.lsqTail lsqCount_pos_of_dispatches
  lsqOccupied := h.lsqOccupied hi
  roomRs _ := h.roomRs
  roomLsq _ := h.roomLsq
  memFree := h.memFree hi
  reqFree _ := h.reqFree hi
  pendingValid _ := h.pendingValid hi
  jalrStalls _ := h.jalrStalls hi
  jalrUnique _ _ := h.jalrUnique hi
  commitGone _ := h.commitGone
  flushNoIssue := h.flushNoIssue

end PlainTick

/-- Settles O46: a flush tick leaves nothing in flight, and a plain tick moves each record one place on. -/
theorem pipelineInvariantIsKept : Obligations.PipelineInvariantIsKept := by
  intro s t hi h
  obtain ⟨hf, f, rfl⟩ | ⟨f, ht⟩ := step_flush_or_plain h
  · exact (Drained.of_flushTick hf).pipelineInv
  · exact ht.pipelineInv hi

end Sys2Proof.Machine
end

section
/-! The bytes of memory (R38 to R44): a word stored is read back byte by byte, the lowest first, and the image is loaded
over memory record by record. -/

namespace Sys2Proof.Machine

/-! ### Byte order (R43) -/

/-- R43: two neighbouring bytes of a word, put together. -/
theorem byteOfWord_append (v : Word) (k : Nat) :
    byteOfWord v (k + 1) ++ byteOfWord v k = v.extractLsb' (8 * k) 16 :=
  BitVec.extractLsb'_append_extractLsb'_eq_extractLsb' (by omega)

theorem Memory.read16_store_word {m : Memory} (h : m.wf = true) (a : Addr) (v : Word) {k : Nat} (hk : k < 3) :
    (m.store .word a v).read16 (a + BitVec.ofNat 32 k) = v.extractLsb' (8 * k) 16 := by
  have next : a + BitVec.ofNat 32 k + 1#32 = a + BitVec.ofNat 32 (k + 1) := by
    rw [BitVec.add_assoc, ← BitVec.ofNat_add]
  rw [Memory.read16, next, Memory.read8_store_inside h .word a v (k + 1) (Nat.succ_lt_succ hk),
    Memory.read8_store_inside h .word a v k (Nat.lt_succ_of_lt hk), byteOfWord_append]

theorem Memory.read32_store_word {m : Memory} (h : m.wf = true) (a : Addr) (v : Word) :
    (m.store .word a v).read32 a = v := by
  have byte {k : Nat} (hk : k < 4) := Memory.read8_store_inside h .word a v k hk
  have first : (m.store .word a v).read8 a = byteOfWord v 0 := by simpa using byte (k := 0) (by decide)
  rw [Memory.read32, first, byte (k := 1) (by decide), byte (k := 2) (by decide), byte (k := 3) (by decide),
    wordOfBytes_byteOfWord]

/-- Settles O40: each load reads the bytes that the store put there, one by one. -/
theorem byteOrderIsLittleEndian : Obligations.ByteOrderIsLittleEndian := by
  refine ⟨fun m a v h => ⟨Memory.read32_store_word h a v, fun k hk => ?byte, fun k hk => ?half⟩,
    fun m v h => ?wraps, fun m a h => ?ruleExample⟩
  case byte => simp only [Memory.load, Memory.read8_store_inside h .word a v k hk, byteOfWord, and_self]
  case half => simp only [Memory.load, Memory.read16_store_word h a v hk, and_self]
  case wraps =>
    have byte {k : Nat} (hk : k < 2) := Memory.read8_store_inside h .half 0xFFFFFFFF#32 v k hk
    exact ⟨byte (k := 0) (by decide), byte (k := 1) (by decide)⟩
  case ruleExample =>
    have byte {k : Nat} (hk : k < 4) := Memory.read8_store_inside h .word a 0x11223344#32 k hk
    refine ⟨?_, ?_, ?_⟩
    · simpa [byteOfWord] using byte (k := 0) (by decide)
    · exact Memory.read16_store_word h a _ (k := 1) (by decide)
    · exact byte (k := 3) (by decide)

/-! ### The image (R201) -/

/-- Of several bytes written at one address, wrapping included, the last one stays. -/
theorem Memory.read8_writeBytes_last {m : Memory} (h : m.wf = true) (a : Addr) (bs : List Byte) {k : Nat}
    (hk : k < bs.length)
    (hl : ∀ j, k < j → j < bs.length → a + BitVec.ofNat 32 k ≠ a + BitVec.ofNat 32 j) :
    bs[k]? = some ((m.writeBytes a bs).read8 (a + BitVec.ofNat 32 k)) := by
  induction bs generalizing m a k with
  | nil => simp at hk
  | cons b bs ih =>
    have hw := Memory.write8_wf h a b
    rw [Memory.writeBytes]
    cases k with
    | zero =>
      rw [Memory.read8_writeBytes_outside hw, Memory.read8_write8 h, if_pos (by simp)]
      · rfl
      · intro j hj
        rw [addr_succ_add]
        exact hl (j + 1) j.succ_pos (Nat.succ_lt_succ hj)
    | succ k =>
      rw [← addr_succ_add a k, List.getElem?_cons_succ]
      refine ih hw _ (Nat.lt_of_succ_lt_succ hk) fun j hkj hj => ?_
      rw [addr_succ_add a k, addr_succ_add a j]
      exact hl (j + 1) (Nat.succ_lt_succ hkj) (Nat.succ_lt_succ hj)

theorem read8_loadImage_outside {m : Memory} (h : m.wf = true) {image : List ImageRecord} {a : Addr}
    (ha : ∀ r ∈ image, ∀ k < r.bytes.length, a ≠ r.addr + BitVec.ofNat 32 k) :
    (loadImage m image).read8 a = m.read8 a := by
  induction image generalizing m with
  | nil => rfl
  | cons r image ih =>
    rw [loadImage, ih (Memory.writeBytes_wf h _ _) fun q hq => ha q (List.mem_cons_of_mem r hq),
      Memory.read8_writeBytes_outside h _ _ _ (ha r List.mem_cons_self)]

theorem loadImage_append (m : Memory) (before after : List ImageRecord) :
    loadImage m (before ++ after) = loadImage (loadImage m before) after := by
  induction before generalizing m with
  | nil => rfl
  | cons r before ih => exact ih _

/-- Settles O57: the records before the byte's own are loaded first, and those after it leave the byte alone. -/
theorem imageIsLoadedOverUnloadedBytes : Obligations.ImageIsLoadedOverUnloadedBytes := by
  intro cfg image
  have hu := Memory.unloaded_wf cfg.unloadedByte
  refine ⟨boot_memory_wf cfg image, fun a => ⟨fun ha => ?unloaded, ?loaded⟩⟩
  case unloaded => exact (read8_loadImage_outside hu ha).trans (Memory.read8_unloaded _ a)
  case loaded =>
    rintro before after r k rfl hk rfl later after_outside
    have hb := loadImage_wf hu before
    change _ = some ((loadImage (Memory.unloaded cfg.unloadedByte) _).read8 _)
    rw [loadImage_append, loadImage, read8_loadImage_outside (Memory.writeBytes_wf hb _ _) after_outside]
    exact Memory.read8_writeBytes_last hb _ _ hk later

end Sys2Proof.Machine
end

section
/-! Decode of the encoder's words (R64, R69, R71), family by family, and the step at a word placed where it fetches. -/

namespace Sys2Proof

/-! ### The halt word's fields (R70) -/

/-- R70: the key fields of HALT_WORD are those of an addi, and of no other instruction. -/
theorem haltWord_key : Field.opcode Config.core.haltWord = 0x13#7 ∧ Field.funct3 Config.core.haltWord = 0#3 := by
  decide

theorem haltWord_operands : Field.rd Config.core.haltWord = 10#5 ∧ Field.rs1 Config.core.haltWord = 10#5 ∧
    Field.immI Config.core.haltWord = 255#12 := by
  decide

theorem ne_haltWord_of_opcode {w : Word} (h : Field.opcode w ≠ 0x13#7) : w ≠ Config.core.haltWord := by
  rintro rfl; exact h haltWord_key.1

theorem ne_haltWord_of_funct3 {w : Word} (h : Field.funct3 w ≠ 0#3) : w ≠ Config.core.haltWord := by
  rintro rfl; exact h haltWord_key.2

/-- R70: an addi that is not the halt sentinel has another word. -/
theorem encodeI_addi_ne_haltWord {rd rs1 : RegIdx} {imm : BitVec 12} (h : notHaltShaped rd rs1 imm = true) :
    encodeI 0#3 0x13#7 rd rs1 imm ≠ Config.core.haltWord := by
  intro he
  obtain ⟨hrd, hrs1, himm⟩ := haltWord_operands
  rw [← he, rd_encodeI] at hrd
  rw [← he, rs1_encodeI] at hrs1
  rw [← he, immI_encodeI] at himm
  simp [notHaltShaped, hrd, hrs1, himm] at h

/-- R72: this hardware compares the whole funct7. -/
theorem strictDecode_core : Config.core.strictDecode = true := rfl

/-! ### The family a word is decoded in, from its opcode (R71) -/

section Family

variable {w : Word}

theorem decodeWord_halt : decodeWord Config.core Config.core.haltWord = .ok .halt := rfl

theorem decodeWord_lui (ho : Field.opcode w = 0x37#7) :
    decodeWord Config.core w = .ok (.lui (Field.rd w) (Field.immU w)) := by
  simp [decodeWord, ho, ne_haltWord_of_opcode]

theorem decodeWord_auipc (ho : Field.opcode w = 0x17#7) :
    decodeWord Config.core w = .ok (.auipc (Field.rd w) (Field.immU w)) := by
  simp [decodeWord, ho, ne_haltWord_of_opcode]

theorem decodeWord_jal (ho : Field.opcode w = 0x6F#7) :
    decodeWord Config.core w = .ok (.jal (Field.rd w) (Field.immJ w)) := by
  simp [decodeWord, ho, ne_haltWord_of_opcode]

theorem decodeWord_jalr (ho : Field.opcode w = 0x67#7) (h3 : Field.funct3 w = 0#3) :
    decodeWord Config.core w = .ok (.jalr (Field.rd w) (Field.rs1 w) (Field.immI w)) := by
  simp [decodeWord, ho, h3, ne_haltWord_of_opcode]

theorem decodeWord_branch (ho : Field.opcode w = 0x63#7) : decodeWord Config.core w = decodeBranch w := by
  simp [decodeWord, ho, ne_haltWord_of_opcode]

theorem decodeWord_load (ho : Field.opcode w = 0x03#7) : decodeWord Config.core w = decodeLoad w := by
  simp [decodeWord, ho, ne_haltWord_of_opcode]

theorem decodeWord_store (ho : Field.opcode w = 0x23#7) : decodeWord Config.core w = decodeStore w := by
  simp [decodeWord, ho, ne_haltWord_of_opcode]

theorem decodeWord_opImm (ho : Field.opcode w = 0x13#7) (hw : w ≠ Config.core.haltWord) :
    decodeWord Config.core w = decodeOpImm true w := by
  simp [decodeWord, ho, hw, strictDecode_core]

theorem decodeWord_op (ho : Field.opcode w = 0x33#7) : decodeWord Config.core w = decodeOp true w := by
  simp [decodeWord, ho, ne_haltWord_of_opcode, strictDecode_core]

end Family

/-! ### Decode of encode -/

/-- R71: the word of a well-formed instruction decodes to it. -/
theorem decodeWord_encode {i : Instr} (h : i.wellFormed = true) : decodeWord Config.core (encode i) = .ok i := by
  cases i with
  | halt => exact decodeWord_halt
  | lui | auipc =>
    simp [encode, decodeWord_lui, decodeWord_auipc]
  | jal => simpa [encode, decodeWord_jal] using immJ_encodeJ _ _ _ h
  | jalr => simp [encode, decodeWord_jalr]
  | beq | bne | blt | bge | bltu | bgeu =>
    simpa [encode, decodeWord_branch, decodeBranch] using immB_encodeB _ _ _ _ _ h
  | lb | lh | lw | lbu | lhu => simp [encode, decodeWord_load, decodeLoad]
  | sb | sh | sw => simp [encode, decodeWord_store, decodeStore]
  | addi =>
    rw [encode, decodeWord_opImm (by simp) (encodeI_addi_ne_haltWord h)]
    simp [decodeOpImm]
  | slti | sltiu | xori | ori | andi | slli | srli | srai =>
    rw [encode, decodeWord_opImm (by simp) (ne_haltWord_of_funct3 (by simp))]
    simp [decodeOpImm]
  | add | sub | sll | slt | sltu | xor | srl | sra | or | and =>
    simp [encode, decodeWord_op, decodeOp]

/-- The 32 bits of a word, given as a number, are the word. -/
theorem ofNat_toNat_mod (w : Word) : BitVec.ofNat 32 (w.toNat % 2 ^ 32) = w := by
  rw [Nat.mod_eq_of_lt w.isLt, BitVec.ofNat_toNat, BitVec.setWidth_eq]

theorem decodeTableWord_encode {i : Instr} (h : i.wellFormed = true) :
    decodeTableWord 32 (encode i).toNat = some i := by
  simp only [decodeTableWord, ofNat_toNat_mod, decodeBytes, wordOfBytes_byteOfWord, decodeWord_encode h]

end Sys2Proof

namespace Sys2Proof.Machine

/-- R47: the fetch reads the word that was placed at the speculated PC. -/
theorem fetchWord_withFetchWord {s : State} (h : s.mem.bytes.wf = true) (w : Word) :
    fetchWord (s.withFetchWord 32 w.toNat) = w := by
  rw [fetchWord, withFetchWord_csu, withFetchWord_mem_bytes, Memory.read32_store_word h, ofNat_toNat_mod]

/-- Settles O2: what is placed is fetched, and decodes to the instruction it was encoded from. -/
theorem stepRunsThePlacedWord : Obligations.StepRunsThePlacedWord := by
  intro s i hr hm hw
  have hf := fetchWord_withFetchWord hm (encode i)
  exact ⟨hf, decodeTableWord_encode hw, step_known hr (by rw [hf, decodeWord_encode hw])⟩

end Sys2Proof.Machine
end

section
/-! Memory's part of a plain tick (R49 to R52, R55): the busy protocol, what it writes, and the playback record it
discards. -/

namespace Sys2Proof.Machine

/-- A next state of `exec` out of a flush tick is a plain tick's. -/
theorem exec_plainTick {i : Instr} {s t : State} (h : exec i s = .next t) (hf : s.csu.flushReq = false) :
    PlainTick (.known (issueReqOf i)) s t := by
  obtain ⟨-, hn, rfl⟩ := exec_next_iff.1 h
  exact ⟨hf, hn, fun r hr => ⟨i, (Fetched.known.inj hr).symm⟩, rfl⟩

/-! ### The request performed (R52) -/

section Performed

variable {s : State} {p : MemRequest} {w : Width}

theorem memPerforming_of_ne_busy2 (hm : s.mem.state ≠ .busy2) : memPerforming s = none := by
  unfold memPerforming
  split
  · rfl
  · cases hs : s.mem.state with
    | free | busy1 => rfl
    | busy2 => exact absurd hs hm

theorem memPerforming_of_busy2 (hf : s.csu.flushReq = false) (hm : s.mem.state = .busy2) :
    memPerforming s = s.mem.pending := by
  simp [memPerforming, hf, hm]

theorem memWriting_of_not_performing (h : memPerforming s = none) : memWriting s = none := by
  simp [memWriting, h]

theorem memWriting_of_read (h : memPerforming s = some p) (hd : requestDirection p.type = .read) :
    memWriting s = none := by
  simp [memWriting, memWriteWidth, h, hd]

theorem memWriting_of_write (h : memPerforming s = some p) (hd : requestDirection p.type = .write)
    (hw : requestWidth p.type = some w) : memWriting s = some (p, w) := by
  simp [memWriting, memWriteWidth, h, hd, hw]

theorem memResult_of_read (m : Memory) (hd : requestDirection p.type = .read) (hw : requestWidth p.type = some w) :
    memResult m p = { rob := p.rob, value := m.load w p.signed p.addr } := by
  simp [memResult, hd, hw]

theorem memResult_of_write (m : Memory) (hd : requestDirection p.type = .write) :
    memResult m p = { rob := p.rob, value := 0#32 } := by
  simp [memResult, hd]

end Performed

namespace PlainTick

variable {f : Fetched} {s t : State} {p : MemRequest} {w : Width}

theorem memOut (h : PlainTick f s t) : t.mem.out = (memPerforming s).map (memResult s.mem.bytes) := by
  rw [h.mem, memNext_out, memOutNext]
  cases memPerforming s <;> rfl

/-! ### The bytes, the counter and the records (R52, R55) -/

theorem bytes_of_writing (h : PlainTick f s t) (hw : memWriting s = some (p, w)) :
    t.mem.bytes = s.mem.bytes.store w p.addr p.data := by
  simp [h.mem, memBytesNext, h.noFlush, hw]

theorem bytes_of_not_writing (h : PlainTick f s t) (hw : memWriting s = none) : t.mem.bytes = s.mem.bytes := by
  simp [h.mem, memBytesNext, h.noFlush, hw]

theorem wcount_of_writing (h : PlainTick f s t) (hw : memWriting s = some (p, w)) :
    t.mem.wcount = s.mem.wcount + 1 := by
  rw [h.mem, memNext_wcount_of_writing hw]

theorem wcount_of_not_writing (h : PlainTick f s t) (hw : memWriting s = none) : t.mem.wcount = s.mem.wcount := by
  simp [h.mem, memNext, hw]

theorem playback_of_writing (h : PlainTick f s t) (hw : memWriting s = some (p, w)) :
    t.mem.playback[p.rob] = some (playbackOf s.mem p w) := by
  rw [h.mem, memNext_playback_get]
  simp [memPlaybackNext, h.noFlush, hw]

theorem playback_of_not_writing (h : PlainTick f s t) {j : RobIdx}
    (hj : ∀ p w, memWriting s = some (p, w) → p.rob ≠ j) :
    t.mem.playback[j] = if commitsSlot s j then none else s.mem.playback[j] := by
  rw [h.mem, memNext_playback_get, memPlaybackNext, h.noFlush]
  cases hw : memWriting s with
  | none => rfl
  | some x => simp [hj x.1 x.2 hw]

/-! ### The protocol, state by state (R50 to R52) -/

/-- R50, R51: out of Busy_2 nothing is performed. -/
theorem idle_of_ne_busy2 (h : PlainTick f s t) (hm : s.mem.state ≠ .busy2) :
    t.mem.out = none ∧ t.mem.bytes = s.mem.bytes ∧ t.mem.wcount = s.mem.wcount := by
  have hp := memPerforming_of_ne_busy2 hm
  have hw := memWriting_of_not_performing hp
  exact ⟨by rw [h.memOut, hp]; rfl, h.bytes_of_not_writing hw, h.wcount_of_not_writing hw⟩

/-- R52: a read publishes what it loads and changes nothing. -/
theorem read_performed (h : PlainTick f s t) (hp : memPerforming s = some p)
    (hd : requestDirection p.type = .read) (hw : requestWidth p.type = some w) :
    t.mem.out = some { rob := p.rob, value := s.mem.bytes.load w p.signed p.addr } ∧
      t.mem.bytes = s.mem.bytes ∧ t.mem.wcount = s.mem.wcount := by
  have hn := memWriting_of_read hp hd
  refine ⟨?_, h.bytes_of_not_writing hn, h.wcount_of_not_writing hn⟩
  rw [h.memOut, hp, Option.map_some, memResult_of_read _ hd hw]

/-- R52: a write publishes 0, keeps the bytes it overwrites, and stores its own. -/
theorem write_performed (h : PlainTick f s t) (hp : memPerforming s = some p)
    (hd : requestDirection p.type = .write) (hw : requestWidth p.type = some w) :
    t.mem.out = some { rob := p.rob, value := 0#32 } ∧
      t.mem.playback[p.rob] = some (playbackOf s.mem p w) ∧
      t.mem.wcount = s.mem.wcount + 1 ∧ t.mem.bytes = s.mem.bytes.store w p.addr p.data := by
  have hn := memWriting_of_write hp hd hw
  refine ⟨?_, h.playback_of_writing hn, h.wcount_of_writing hn, h.bytes_of_writing hn⟩
  rw [h.memOut, hp, Option.map_some, memResult_of_write _ hd]

end PlainTick

/-- Settles O38, one state of Memory after the other. -/
theorem memoryBusyProtocol : Obligations.MemoryBusyProtocol := by
  intro i s t h hf
  have ht := exec_plainTick h hf
  have hstate := ht.mem_state
  have hpending := ht.mem_pending
  simp only [memStateNext, memPendingNext, hf, Bool.false_eq_true, if_false] at hstate hpending
  have noRequest (hm : s.mem.state ≠ .free) := noFault_memBusy ht.noFault hf hm
  refine ⟨fun hm hr => ?waits, fun r hm hr => ?accepts, fun hm => ?busy1, ht.idle_of_ne_busy2, fun hm => ?busy2⟩
  case waits => simpa [hm, hr] using hstate
  case accepts =>
    exact ⟨noFault_memFree ht.noFault hf hm hr, by simpa [hm, hr] using hstate, by simpa [hm, hr] using hpending⟩
  case busy1 => simpa [hm, hstate, hpending] using noRequest (by simp [hm])
  case busy2 =>
    obtain ⟨p, hp, hv⟩ := noFault_busy2 ht.noFault hf hm
    obtain ⟨w, hw, hd⟩ := (requestValid_iff _).1 hv
    have hperf : memPerforming s = some p := (memPerforming_of_busy2 hf hm).trans hp
    refine ⟨p, w, hp, hw, noRequest (by simp [hm]), by simpa [hm] using hstate, by simpa [hm] using hpending, ?_⟩
    exact hd.imp (fun hd => ⟨hd, ht.read_performed hperf hd hw⟩) fun hd => ⟨hd, ht.write_performed hperf hd hw⟩

/-- Settles O39: the array changes by the store that Memory performs, if there is one. -/
theorem memoryChangesOnlyTheStoredBytes : Obligations.MemoryChangesOnlyTheStoredBytes := by
  intro i s t hm h hf
  have ht := exec_plainTick h hf
  refine ⟨fun a ha => ?outside, fun p w hw k hk => ?inside⟩
  case outside =>
    cases hw : memWriting s with
    | none => rw [ht.bytes_of_not_writing hw]
    | some x => rw [ht.bytes_of_writing hw, Memory.read8_store_outside hm _ _ _ _ (ha _ _ hw)]
  case inside => rw [ht.bytes_of_writing hw, Memory.read8_store_inside hm _ _ _ k hk]

/-- Settles O41: no write is performed for the committing slot, which would stage its record twice (R81). -/
theorem commitDiscardsThePlaybackRecord : Obligations.CommitDiscardsThePlaybackRecord := by
  intro i s t h hf
  have ht := exec_plainTick h hf
  refine ⟨fun k hk => ?discarded, fun j hj hw => ?kept, ht.bytes_of_not_writing⟩
  case discarded =>
    have hc : commitsSlot s k.rob = true := (commitsSlot_iff s k.rob).2 ⟨k, hk, rfl⟩
    rw [ht.playback_of_not_writing, if_pos hc]
    intro p w hw he
    have := noFault_playback ht.noFault hf hw
    rw [he, hc] at this
    cases this
  case kept =>
    rw [ht.playback_of_not_writing hw, if_neg]
    rw [commitsSlot_iff]
    rintro ⟨k, hk, he⟩
    exact hj k hk he

end Sys2Proof.Machine
end

section
/-! The undoing of playback records (R56): the last record undone that covers a byte decides it, and with the records in
descending timestamp order that is the earliest. -/

namespace Sys2Proof.Machine

/-! ### Records undone one after the other -/

theorem read8_foldl_undoOne_outside {m : Memory} (h : m.wf = true) {rs : List Playback} {a : Addr}
    (ha : ∀ r ∈ rs, ∀ k < r.old.length, a ≠ r.addr + BitVec.ofNat 32 k) :
    (rs.foldl undoOne m).read8 a = m.read8 a := by
  induction rs generalizing m with
  | nil => rfl
  | cons r rs ih =>
    rw [List.foldl_cons, ih (undoOne_wf h r) fun q hq => ha q (List.mem_cons_of_mem r hq), undoOne,
      Memory.read8_writeBytes_outside h _ _ _ (ha r List.mem_cons_self)]

/-- R56: with the records in descending timestamp order, the earliest one that covers a byte decides it. -/
theorem read8_foldl_undoOne_earliest {m : Memory} (h : m.wf = true) {rs : List Playback}
    (hs : rs.Pairwise fun q r => r.ts < q.ts) {r : Playback} (hr : r ∈ rs) {k : Nat} (hk : k < r.old.length)
    (hl : r.old.length ≤ 2 ^ 32)
    (hmin : ∀ q ∈ rs, ∀ j < q.old.length, r.addr + BitVec.ofNat 32 k = q.addr + BitVec.ofNat 32 j → r.ts ≤ q.ts) :
    (rs.foldl undoOne m).read8 (r.addr + BitVec.ofNat 32 k) = r.old[k] := by
  induction rs generalizing m with
  | nil => cases hr
  | cons x rs ih =>
    obtain ⟨later, hs⟩ := List.pairwise_cons.1 hs
    rw [List.foldl_cons]
    obtain rfl | hr := List.mem_cons.1 hr
    · have alone : ∀ q ∈ rs, ∀ j < q.old.length, r.addr + BitVec.ofNat 32 k ≠ q.addr + BitVec.ofNat 32 j :=
        fun q hq j hj he => (later q hq).not_ge (hmin q (List.mem_cons_of_mem r hq) j hj he)
      rw [read8_foldl_undoOne_outside (undoOne_wf h r) alone, undoOne,
        Memory.read8_writeBytes_inside h _ _ hl k hk]
    · exact ih (undoOne_wf h x) hs hr fun q hq => hmin q (List.mem_cons_of_mem x hq)

/-! ### The order of the undoing (R56) -/

theorem insertByTs_eq_orderedInsert (r : Playback) (rs : List Playback) :
    insertByTs r rs = rs.orderedInsert (Playback.ts ⁻¹'o (· ≥ ·)) r := by
  induction rs with
  | nil => rfl
  | cons x rs ih => simp only [insertByTs, List.orderedInsert, Order.Preimage, ih, ge_iff_le]

theorem descendingTs_eq_insertionSort (rs : List Playback) :
    descendingTs rs = rs.insertionSort (Playback.ts ⁻¹'o (· ≥ ·)) := by
  induction rs with
  | nil => rfl
  | cons r rs ih => rw [descendingTs, ih, insertByTs_eq_orderedInsert, List.insertionSort_cons]

theorem mem_descendingTs {rs : List Playback} {r : Playback} : r ∈ descendingTs rs ↔ r ∈ rs := by
  rw [descendingTs_eq_insertionSort, List.mem_insertionSort]

/-- Records of distinct timestamps are undone in strictly descending order. -/
theorem descendingTs_pairwise {rs : List Playback} (h : rs.Pairwise fun q r => q.ts ≠ r.ts) :
    (descendingTs rs).Pairwise fun q r => r.ts < q.ts := by
  rw [descendingTs_eq_insertionSort]
  have distinct := (List.perm_insertionSort (Playback.ts ⁻¹'o (· ≥ ·)) rs).symm.pairwise h Ne.symm
  have sorted := List.pairwise_insertionSort (Playback.ts ⁻¹'o (· ≥ ·)) rs
  exact (sorted.and distinct).imp fun hq => lt_of_le_of_ne hq.1 hq.2.symm

/-! ### The records of the ROB slots -/

theorem mem_recordsWhere {u : MemUnit} {keep : RobIdx → Bool} {r : Playback} :
    r ∈ recordsWhere u keep ↔ ∃ i, keep i = true ∧ u.playback[i] = some r := by
  simp [recordsWhere]

theorem PlaybackInv.recordsWhere_distinct {s : State} (hp : PlaybackInv s) (keep : RobIdx → Bool) :
    (recordsWhere s.mem keep).Pairwise fun q r => q.ts ≠ r.ts := by
  refine List.Pairwise.filterMap _ (fun i j hij q hq r hr hts => hij ?_) (List.nodup_finRange robSize)
  obtain ⟨-, hq⟩ := Option.ite_none_right_eq_some.1 hq
  obtain ⟨-, hr⟩ := Option.ite_none_right_eq_some.1 hr
  exact hp.distinct i j q r hq hr hts

/-- R56: the bytes after a flush tick. -/
theorem exec_flush_bytes {i : Instr} {s t : State} (h : exec i s = .next t) (hf : s.csu.flushReq = true) :
    t.mem.bytes = (descendingTs (recordsWhere s.mem fun j => !commitsSlot s j)).foldl undoOne s.mem.bytes := by
  obtain ⟨-, -, rfl⟩ := exec_next_iff.1 h
  rw [afterSync_mem, unitsNext_mem, memNext_bytes, memBytesNext, if_pos hf, undoAll]

/-- Settles O43: the records undone have distinct timestamps, so the earliest that covers a byte is undone last. -/
theorem flushRestoresEveryOverwrittenByte : Obligations.FlushRestoresEveryOverwrittenByte := by
  intro i s t hp h hf a
  rw [exec_flush_bytes h hf]
  have undone {r : Playback} : r ∈ descendingTs (recordsWhere s.mem fun j => !commitsSlot s j) ↔
      ∃ j : RobIdx, s.mem.playback[j] = some r ∧ commitsSlot s j = false := by
    simp [mem_descendingTs, mem_recordsWhere, and_comm]
  refine ⟨fun ha => ?untouched, fun j r k hr hc hk hak hmin => ?restored⟩
  case untouched =>
    refine read8_foldl_undoOne_outside hp.memory fun r hr k hk => ?_
    obtain ⟨j, hj, hc⟩ := undone.1 hr
    exact ha j r hj hc k (hp.length j r hj ▸ hk)
  case restored =>
    subst hak
    have hlen := hp.length j r hr
    have hl : r.old.length ≤ 2 ^ 32 := by rw [hlen]; cases r.len <;> decide
    rw [← hlen] at hk
    rw [read8_foldl_undoOne_earliest hp.memory (descendingTs_pairwise (hp.recordsWhere_distinct _))
      (undone.2 ⟨j, hr, hc⟩) hk hl, List.getElem?_eq_getElem hk]
    intro q hq j' hj' he
    obtain ⟨i', hi', hc'⟩ := undone.1 hq
    exact hmin i' q j' hi' hc' (hp.length i' q hi' ▸ hj') he

end Sys2Proof.Machine
end

section
/-! The refusal of R61 (log entry 7): what the check remembers from tick to tick, and when a tick is refused. -/

namespace Sys2Proof.Machine

/-! ### What the check remembers -/

theorem mem_fetchedAddrs {pc : Addr} {n : Nat} :
    n ∈ fetchedAddrs pc ↔ ∃ k < 4, n = (pc + BitVec.ofNat 32 k).toNat := by
  constructor
  · simp only [fetchedAddrs, List.mem_cons, List.not_mem_nil, or_false]
    rintro (rfl | rfl | rfl | rfl)
    exacts [⟨0, by decide, by simp⟩, ⟨1, by decide, rfl⟩, ⟨2, by decide, rfl⟩, ⟨3, by decide, rfl⟩]
  · rintro ⟨k, hk, rfl⟩
    interval_cases k <;> simp [fetchedAddrs]

theorem fetchesStored_iff {s : State} {pc : Addr} :
    fetchesStored s pc = true ↔
      ∃ k < 4, (pc + BitVec.ofNat 32 k).toNat ∈ s.guard.stored ∨
        ∃ c, s.csu.commit = some c ∧ (c.rob, (pc + BitVec.ofNat 32 k).toNat) ∈ s.guard.pending := by
  simp only [fetchesStored, List.any_eq_true, Bool.or_eq_true, List.contains_iff_mem, mem_fetchedAddrs,
    mem_committingChanges]
  constructor
  · rintro ⟨_, ⟨k, hk, rfl⟩, h⟩
    exact ⟨k, hk, h⟩
  · rintro ⟨k, hk, h⟩
    exact ⟨_, ⟨k, hk, rfl⟩, h⟩

theorem mem_guardNext_stored {s : State} {n : Nat} :
    n ∈ (guardNext s).stored ↔
      n ∈ s.guard.stored ∨ ∃ c, s.csu.commit = some c ∧ (c.rob, n) ∈ s.guard.pending := by
  simp only [guardNext, mem_foldl_noteStored, mem_committingChanges]

/-- The addresses at which the write of this tick changes memory, under its ROB slot. -/
theorem mem_changesNow {s : State} {q : RobIdx} {n : Nat} :
    (q, n) ∈ changesNow s ↔
      ∃ p w k, memWriting s = some (p, w) ∧ k < w.bytes ∧ q = p.rob ∧ n = (p.addr + BitVec.ofNat 32 k).toNat ∧
        s.mem.bytes.read8 (p.addr + BitVec.ofNat 32 k) ≠ byteOfWord p.data k := by
  unfold changesNow
  split
  next p w hw =>
    simp only [List.mem_map, mem_changedFrom, storeBytes_getElem, storeBytes_length, Prod.mk.injEq]
    constructor
    · rintro ⟨_, ⟨k, hk, rfl, hne⟩, rfl, rfl⟩
      exact ⟨p, w, k, hw, hk, rfl, rfl, hne⟩
    · rintro ⟨p', w', k, hw', hk, rfl, rfl, hne⟩
      rw [hw] at hw'
      cases hw'
      exact ⟨_, ⟨k, hk, rfl, hne⟩, rfl, rfl⟩
  next hw => simp [hw]

theorem commitsSlot_eq_false_iff {s : State} {q : RobIdx} :
    commitsSlot s q = false ↔ ∀ c, s.csu.commit = some c → c.rob ≠ q := by
  rw [← Bool.not_eq_true, commitsSlot_iff]
  push Not
  rfl

theorem mem_guardNext_pending {s : State} {q : RobIdx} {n : Nat} :
    (q, n) ∈ (guardNext s).pending ↔ s.csu.flushReq = false ∧
      (((q, n) ∈ s.guard.pending ∧ ∀ c, s.csu.commit = some c → c.rob ≠ q) ∨ (q, n) ∈ changesNow s) := by
  cases hf : s.csu.flushReq with
  | true => simp [guardNext, hf]
  | false => simp [guardNext, hf, ← commitsSlot_eq_false_iff, or_comm]

/-! ### When a tick is refused -/

theorem refusedFetch_known_eq_some {s : State} {r : IssueReq} {pc : Addr} :
    refusedFetch (.known r) s = some pc ↔
      s.csu.flushReq = false ∧ s.csu.commits = true ∧ fetchesStored s s.csu.headEntry.pc = true ∧
        s.csu.headEntry.pc = pc := by
  cases hf : s.csu.flushReq <;> simp [refusedFetch, hf, and_assoc]

/-- R105: with the ROB empty no entry commits, so an issue attempt waits for a flush or a jalr only. -/
theorem attempts_of_robEmpty {c : Csu} (h : c.robCount = 0) :
    c.commits = false ∧ (c.attempts = true ↔ c.flushReq = false ∧ c.jalrWait = false) := by
  have hc : c.commits = false := by simp [Csu.commits, h]
  exact ⟨hc, by simp [attempts_iff, Csu.flushNow, hc]⟩

theorem refusedFetch_unknown_eq_some {s : State} {w : Word} {pc : Addr} :
    refusedFetch (.unknown w) s = some pc ↔ s.csu.flushReq = false ∧
      ((s.csu.commits = true ∧ fetchesStored s s.csu.headEntry.pc = true ∧ s.csu.headEntry.pc = pc) ∨
        (s.csu.jalrWait = false ∧ s.csu.robCount = 0 ∧ fetchesStored s s.csu.specPc = true ∧ s.csu.specPc = pc)) := by
  cases hf : s.csu.flushReq with
  | true => simp [refusedFetch, hf]
  | false =>
    by_cases h0 : s.csu.robCount = 0
    · obtain ⟨hc, ha⟩ := attempts_of_robEmpty h0
      simp [refusedFetch, hf, hc, ha, h0, and_assoc]
    · simp [refusedFetch, hf, h0, and_assoc]

theorem exec_refused_iff {i : Instr} {s : State} {r : Refusal} :
    exec i s = .refused r ↔ s.csu.flushReq = false ∧ s.csu.commits = true ∧
      fetchesStored s s.csu.headEntry.pc = true ∧ r = .storedCodeFetched s.csu.headEntry.pc := by
  simp [exec_eq_tick, tick_refused_iff, refusedFetch_known_eq_some, and_assoc]

theorem step_unknown_refused_iff {s : State} {e : DecodeReject} {r : Refusal} (hr : s.drv.status = .running)
    (hd : decodeWord Config.core (fetchWord s) = .error e) :
    step s = .refused r ↔ s.csu.flushReq = false ∧
      ((s.csu.commits = true ∧ fetchesStored s s.csu.headEntry.pc = true ∧
          r = .storedCodeFetched s.csu.headEntry.pc) ∨
        (s.csu.jalrWait = false ∧ s.csu.robCount = 0 ∧ fetchesStored s s.csu.specPc = true ∧
          r = .storedCodeFetched s.csu.specPc)) := by
  simp [step_unknown hr hd, tick_refused_iff, refusedFetch_unknown_eq_some, and_assoc, or_and_right, exists_or]

/-- R61: a head that commits a word fetched from stored code refuses the step, whatever word is at the speculated PC. -/
theorem step_refused_of_head {s : State} (hr : s.drv.status = .running) (hf : s.csu.flushReq = false)
    (hc : s.csu.commits = true) (hs : fetchesStored s s.csu.headEntry.pc = true) :
    step s = .refused (.storedCodeFetched s.csu.headEntry.pc) := by
  cases hd : decodeWord Config.core (fetchWord s) with
  | ok i => rw [step_known hr hd, exec_refused_iff]; exact ⟨hf, hc, hs, rfl⟩
  | error e => rw [step_unknown_refused_iff hr hd]; exact ⟨hf, .inl ⟨hc, hs, rfl⟩⟩

theorem running_of_step_refused {s : State} {r : Refusal} (h : step s = .refused r) : s.drv.status = .running := by
  by_contra hr
  rw [step_ended hr] at h
  cases h

/-- The check's own state after any tick. -/
theorem guard_of_next {s t : State} (h : step s = .next t ∨ ∃ i, exec i s = .next t) : t.guard = guardNext s := by
  obtain h | ⟨i, h⟩ := h
  · obtain ⟨-, f, -, -, -, rfl⟩ := step_cases h
    rfl
  · obtain ⟨-, -, rfl⟩ := exec_next_iff.1 h
    rfl

/-- Settles O56: a refusal names the head, or the unknown word behind an empty ROB, and a tick keeps in its lists what
its write changes and what commits. -/
theorem storedCodeIsRefused : Obligations.StoredCodeIsRefused := by
  refine ⟨fun s pc => fetchesStored_iff, fun i s hf hc hs => exec_refused_iff.2 ⟨hf, hc, hs, rfl⟩,
    fun i s r h => ?execHead, fun s => step_refused_of_head, fun s e hr hd hf hj h0 hs => ?unknown,
    fun s r h => ?stepCases, fun s t h => ?kept⟩
  case execHead =>
    obtain ⟨hf, hc, hs, rfl⟩ := exec_refused_iff.1 h
    exact ⟨rfl, hf, hc, hs⟩
  case unknown => exact (step_unknown_refused_iff hr hd).2 ⟨hf, .inr ⟨hj, h0, hs, rfl⟩⟩
  case stepCases =>
    have hr := running_of_step_refused h
    refine ⟨hr, ?_⟩
    cases hd : decodeWord Config.core (fetchWord s) with
    | ok i =>
      rw [step_known hr hd] at h
      obtain ⟨hf, hc, hs, rfl⟩ := exec_refused_iff.1 h
      exact ⟨hf, .inl ⟨rfl, hc, hs⟩⟩
    | error e =>
      obtain ⟨hf, ⟨hc, hs, rfl⟩ | ⟨hj, h0, hs, rfl⟩⟩ := (step_unknown_refused_iff hr hd).1 h
      · exact ⟨hf, .inl ⟨rfl, hc, hs⟩⟩
      · exact ⟨hf, .inr ⟨rfl, ⟨e, rfl⟩, hj, h0, hs⟩⟩
  case kept =>
    rw [guard_of_next h]
    refine ⟨fun n => mem_guardNext_stored, fun q n => ?_⟩
    rw [mem_guardNext_pending, mem_changesNow]

end Sys2Proof.Machine
end

section
/-! Decode and encode as inverses (R64, R71), and what follows of the halt word (R70). -/

namespace Sys2Proof

/-! ### The instructions that have a word (R66, R70) -/

theorem eq_of_notHaltShaped_eq_false {rd rs1 : RegIdx} {imm : BitVec 12} (h : notHaltShaped rd rs1 imm = false) :
    rd = 10#5 ∧ rs1 = 10#5 ∧ imm = 255#12 := by
  simpa [notHaltShaped, and_assoc] using h

/-- R70: the addi that has the fields of the halt sentinel has its word. -/
theorem encode_addi_haltShaped : encode (.addi 10#5 10#5 255#12) = Config.core.haltWord := by
  decide

/-- R66: the offset read from a word is even. -/
theorem wellFormed_of_decodeBranch {w : Word} {i : Instr} (h : decodeBranch w = .ok i) : i.wellFormed = true := by
  simp only [decodeBranch] at h
  split_ifs at h <;> cases h <;> exact evenOffset_immB w

/-- R66, R70: only a well-formed instruction is decoded from its own word; an odd offset loses its bit 0, and the addi
with the halt sentinel's word is read as the halt. -/
theorem wellFormed_of_decodeWord_encode {i : Instr} (h : decodeWord Config.core (encode i) = .ok i) :
    i.wellFormed = true := by
  cases i with
  | jal rd off =>
    have hoff : Field.immJ (encodeJ 0x6F#7 rd off) = off := by simpa [encode, decodeWord_jal] using h
    rw [Instr.wellFormed, ← hoff]
    exact evenOffset_immJ _
  | beq | bne | blt | bge | bltu | bgeu =>
    rw [decodeWord_branch (by simp [encode])] at h
    exact wellFormed_of_decodeBranch h
  | addi rd rs1 imm =>
    by_contra hn
    obtain ⟨rfl, rfl, rfl⟩ := eq_of_notHaltShaped_eq_false (Bool.not_eq_true _ ▸ hn)
    rw [encode_addi_haltShaped, decodeWord_halt] at h
    cases h
  | _ => rfl

/-- R71: what a word decodes to is well-formed, since it is decoded from its own word. -/
theorem wellFormed_of_decodeWord {w : Word} {i : Instr} (h : decodeWord Config.core w = .ok i) :
    i.wellFormed = true :=
  wellFormed_of_decodeWord_encode (by rw [encode_of_decodeWord h, h])

/-- R63: the four bytes of a well-formed instruction's word decode to it, and the bytes behind them are left. -/
theorem decodeBytes_encode {i : Instr} (h : i.wellFormed = true) (rest : List Byte) :
    decodeBytes Config.core
      (byteOfWord (encode i) 0 :: byteOfWord (encode i) 1 :: byteOfWord (encode i) 2 :: byteOfWord (encode i) 3 ::
        rest) = .ok (i, rest) := by
  simp only [decodeBytes, wordOfBytes_byteOfWord, decodeWord_encode h]

/-- Settles O6: each format's fields are read back from the word it lays out, and the key fields choose the class. -/
theorem decodeOfEncode : Obligations.DecodeOfEncode :=
  fun _ h => ⟨decodeWord_encode h, decodeBytes_encode h⟩

/-- Settles O7: each family's word is rebuilt from its fields, and so the instruction is decoded from its own word. -/
theorem encodeOfDecode : Obligations.EncodeOfDecode :=
  fun _ _ h => ⟨wellFormed_of_decodeWord h, encode_of_decodeWord h⟩

/-- Settles O10: halt's word is the one encoding it has, and the addi with its fields is not well-formed. -/
theorem haltWordBeforeEverything : Obligations.HaltWordBeforeEverything := by
  refine ⟨decodeWord_halt, fun w h => (encode_of_decodeWord h).symm, fun w h => ?_, encode_addi_haltShaped⟩
  have hwf : (Instr.addi 10#5 10#5 255#12).wellFormed = true := wellFormed_of_decodeWord h
  exact absurd hwf (by decide)

end Sys2Proof
end

section
/-! The full instruction ids (R67). The id is a function of the key fields of a class's row, which are those of the
word. -/

namespace Sys2Proof

open Laws

/-! ### The id of a row's key fields -/

/-- R67: `opcode | funct3 << 7 | fbit << 10`, from the three parts. -/
def idOfParts (op : BitVec 7) (f3 : BitVec 3) (fbit : BitVec 1) : BitVec 11 :=
  op.setWidth 11 ||| (f3.setWidth 11 <<< 7) ||| (fbit.setWidth 11 <<< 10)

/-- R67, R69: the table's id of a class is that of its row's key fields, an absent one being 0. -/
theorem fullId_eq_idOfParts {c : OpClass} (h : c ≠ .halt) :
    c.fullId = some (idOfParts c.row.opcode (c.row.funct3.getD 0#3) ((c.row.funct7.getD 0#7).extractLsb' 5 1)) := by
  cases c with
  | halt => contradiction
  | _ => rfl

/-- R64: the U and J formats are those without a funct3. -/
theorem row_funct3 {c : OpClass} (h : c ≠ .halt) :
    if c.row.format = .u ∨ c.row.format = .j then c.row.funct3 = none else c.row.funct3.isSome := by
  cases c with
  | halt => contradiction
  | _ => decide

/-- R64: the R format and the shift-immediates are those with a funct7. -/
theorem row_funct7 (c : OpClass) :
    if c.row.format = .r ∨ c.row.format = .shiftImm then c.row.funct7.isSome else c.row.funct7 = none := by
  cases c <;> decide

/-! ### The row's key fields in the word -/

theorem extractLsb'_30_eq_funct7 (w : Word) : w.extractLsb' 30 1 = (Field.funct7 w).extractLsb' 5 1 := by
  ext i hi
  obtain rfl : i = 0 := by omega
  simp [Field.funct7]

/-- R69: every instruction's word has the key fields of its class's row. -/
theorem encodingRow (i : Instr) : EncodingRow.Statement i := by
  cases i with
  | lui => exact EncodingRow.lui ..
  | auipc => exact EncodingRow.auipc ..
  | jal => exact EncodingRow.jal ..
  | jalr => exact EncodingRow.jalr ..
  | beq => exact EncodingRow.beq ..
  | bne => exact EncodingRow.bne ..
  | blt => exact EncodingRow.blt ..
  | bge => exact EncodingRow.bge ..
  | bltu => exact EncodingRow.bltu ..
  | bgeu => exact EncodingRow.bgeu ..
  | lb => exact EncodingRow.lb ..
  | lh => exact EncodingRow.lh ..
  | lw => exact EncodingRow.lw ..
  | lbu => exact EncodingRow.lbu ..
  | lhu => exact EncodingRow.lhu ..
  | sb => exact EncodingRow.sb ..
  | sh => exact EncodingRow.sh ..
  | sw => exact EncodingRow.sw ..
  | addi => exact EncodingRow.addi ..
  | slti => exact EncodingRow.slti ..
  | sltiu => exact EncodingRow.sltiu ..
  | xori => exact EncodingRow.xori ..
  | ori => exact EncodingRow.ori ..
  | andi => exact EncodingRow.andi ..
  | slli => exact EncodingRow.slli ..
  | srli => exact EncodingRow.srli ..
  | srai => exact EncodingRow.srai ..
  | add => exact EncodingRow.add ..
  | sub => exact EncodingRow.sub ..
  | sll => exact EncodingRow.sll ..
  | slt => exact EncodingRow.slt ..
  | sltu => exact EncodingRow.sltu ..
  | xor => exact EncodingRow.xor ..
  | srl => exact EncodingRow.srl ..
  | sra => exact EncodingRow.sra ..
  | or => exact EncodingRow.or ..
  | and => exact EncodingRow.and ..
  | halt => exact EncodingRow.halt

theorem cls_ne_halt {i : Instr} (h : i ≠ .halt) : i.cls ≠ .halt := by
  cases i with
  | halt => contradiction
  | _ => simp [Instr.cls]

/-- R67: in the formats with a funct3, the word's; in the others 0, as in the row. -/
theorem funct3_of_row {i : Instr} (h : i ≠ .halt) :
    (if i.cls.row.format = .u ∨ i.cls.row.format = .j then 0#11 else (Field.funct3 (encode i)).setWidth 11) =
      (i.cls.row.funct3.getD 0#3).setWidth 11 := by
  obtain ⟨-, h3, -⟩ := encodingRow i
  have hrow := row_funct3 (cls_ne_halt h)
  split_ifs at hrow ⊢
  · rw [hrow]; rfl
  · obtain ⟨k, hk⟩ := Option.isSome_iff_exists.1 hrow
    rw [hk, h3 k hk, Option.getD_some]

/-- R67: in the formats with a funct7, bit 30 of the word is bit 5 of the row's; in the others it does not count. -/
theorem fbit_of_row (i : Instr) :
    (if i.cls.row.format = .r ∨ i.cls.row.format = .shiftImm then
        ((encode i).extractLsb' 30 1).setWidth 11 else 0#11) =
      ((i.cls.row.funct7.getD 0#7).extractLsb' 5 1).setWidth 11 := by
  obtain ⟨-, -, h7⟩ := encodingRow i
  have hrow := row_funct7 i.cls
  split_ifs at hrow ⊢
  · obtain ⟨k, hk⟩ := Option.isSome_iff_exists.1 hrow
    rw [hk, extractLsb'_30_eq_funct7, h7 k hk, Option.getD_some]
  · rw [hrow]; rfl

/-! ### The ids are distinct -/

/-- R69: the 38 classes, in the table's order. -/
def allClasses : List OpClass :=
  [.lui, .auipc, .jal, .jalr, .beq, .bne, .blt, .bge, .bltu, .bgeu, .lb, .lh, .lw, .lbu, .lhu, .sb, .sh, .sw, .addi,
    .slti, .sltiu, .xori, .ori, .andi, .slli, .srli, .srai, .add, .sub, .sll, .slt, .sltu, .xor, .srl, .sra, .or, .and,
    .halt]

theorem mem_allClasses (c : OpClass) : c ∈ allClasses := by
  cases c <;> decide

theorem nodup_fullIds : (allClasses.map OpClass.fullId).Nodup := by
  decide

theorem fullId_injective : Function.Injective OpClass.fullId := fun _ _ h =>
  List.inj_on_of_nodup_map nodup_fullIds (mem_allClasses _) (mem_allClasses _) h

/-- Settles O9: the formula reads the key fields of the row, and the table's ids are distinct. -/
theorem fullIdsSeparateTheClasses : Obligations.FullIdsSeparateTheClasses := by
  refine ⟨fun i _ hi => ?_, rfl, fun c d h => fullId_injective h⟩
  rw [funct3_of_row hi, fbit_of_row, (encodingRow i).1, fullId_eq_idOfParts (cls_ne_halt hi), idOfParts]

end Sys2Proof
end

section
/-! Decode without STRICT_DECODE (R72). Only the families of opcodes 0x13 and 0x33 test a funct7, and of it the
loose test reads bit 5, bit 30 of the word. -/

namespace Sys2Proof

/-- R72: this hardware's parameters but for STRICT_DECODE. -/
abbrev looseConfig : Config := { Config.core with strictDecode := false }

/-! ### The test of funct7 -/

/-- R72: what the strict test accepts, the loose one does. -/
theorem funct7Ok_loose_of_strict {f7 k : BitVec 7} (h : funct7Ok true f7 k = true) : funct7Ok false f7 k = true := by
  rw [funct7Ok_strict] at h
  simp [funct7Ok, h]

/-- R72: the loose test reads bit 5 only. -/
theorem funct7Ok_loose_congr {f7 g7 : BitVec 7} (h : f7.getLsbD 5 = g7.getLsbD 5) (k : BitVec 7) :
    funct7Ok false f7 k = funct7Ok false g7 k := by
  simp only [funct7Ok, Bool.false_eq_true, if_false, h]

/-- R71: the two values of funct7 in the table are told apart by the loose test too. -/
theorem funct7Ok_loose_plain_of_strict_alt {f7 : BitVec 7} (h : funct7Ok true f7 0x20#7 = true) :
    funct7Ok false f7 0x00#7 = false := by
  rw [funct7Ok_strict] at h
  subst h
  rfl

/-! ### The two families that test funct7 -/

/-- An accepting choice stays one when its branches do. -/
theorem ite_ok_mono {p : Prop} [Decidable p] {a a' b b' : Except DecodeReject Instr} {i : Instr}
    (ha : a = .ok i → a' = .ok i) (hb : b = .ok i → b' = .ok i) :
    (if p then a else b) = .ok i → (if p then a' else b') = .ok i := by
  split_ifs
  · exact ha
  · exact hb

/-- R72: a class with one funct7, the plain one. -/
theorem plain_loose_of_strict {f7 : BitVec 7} {a : Except DecodeReject Instr} {e : DecodeReject} {i : Instr}
    (h : (if funct7Ok true f7 0x00#7 then a else .error e) = .ok i) :
    (if funct7Ok false f7 0x00#7 then a else .error e) = .ok i := by
  split_ifs at h with hp
  rw [if_pos (funct7Ok_loose_of_strict hp), h]

/-- R72: two classes with one funct3, told apart by funct7. -/
theorem plainOrAlt_loose_of_strict {f7 : BitVec 7} {a b : Except DecodeReject Instr} {e : DecodeReject} {i : Instr}
    (h : (if funct7Ok true f7 0x00#7 then a else if funct7Ok true f7 0x20#7 then b else .error e) = .ok i) :
    (if funct7Ok false f7 0x00#7 then a else if funct7Ok false f7 0x20#7 then b else .error e) = .ok i := by
  split_ifs at h with hp ha
  · rw [if_pos (funct7Ok_loose_of_strict hp), h]
  · rw [if_neg (by simp [funct7Ok_loose_plain_of_strict_alt ha]), if_pos (funct7Ok_loose_of_strict ha), h]

/-- The tests of funct3 are the same; `slli` and the shifts right, the last of the chain, test funct7. -/
theorem decodeOpImm_loose_of_strict {w : Word} {i : Instr} :
    decodeOpImm true w = .ok i → decodeOpImm false w = .ok i :=
  ite_ok_mono id <| ite_ok_mono id <| ite_ok_mono id <| ite_ok_mono id <| ite_ok_mono id <| ite_ok_mono id <|
    ite_ok_mono plain_loose_of_strict plainOrAlt_loose_of_strict

/-- The first two tests of funct3 are those of `add` and `sub`, and of the shifts right. -/
theorem decodeOp_loose_of_strict {w : Word} {i : Instr} : decodeOp true w = .ok i → decodeOp false w = .ok i :=
  ite_ok_mono plainOrAlt_loose_of_strict <| ite_ok_mono plainOrAlt_loose_of_strict plain_loose_of_strict

theorem decodeOpImm_slli {strict : Bool} {w : Word} (h3 : Field.funct3 w = 1#3) :
    decodeOpImm strict w = if funct7Ok strict (Field.funct7 w) 0x00#7 then
      .ok (.slli (Field.rd w) (Field.rs1 w) (Field.shamt w)) else .error (.unknownFunct7 w) := by
  simp [decodeOpImm, h3]

theorem decodeOpImm_shiftRight {strict : Bool} {w : Word} (h3 : Field.funct3 w = 5#3) :
    decodeOpImm strict w =
      if funct7Ok strict (Field.funct7 w) 0x00#7 then .ok (.srli (Field.rd w) (Field.rs1 w) (Field.shamt w))
      else if funct7Ok strict (Field.funct7 w) 0x20#7 then .ok (.srai (Field.rd w) (Field.rs1 w) (Field.shamt w))
      else .error (.unknownFunct7 w) := by
  simp [decodeOpImm, h3]

/-- R72: a shift-immediate is read alike whatever the bits of funct7 other than bit 5 are. -/
theorem decodeOpImm_loose_congr {f7 g7 : BitVec 7} {f3 : BitVec 3} {rd rs1 shamt : RegIdx} {i : Instr}
    (h7 : f7.getLsbD 5 = g7.getLsbD 5) (h3 : f3 = 1#3 ∨ f3 = 5#3) :
    decodeOpImm false (encodeR f7 f3 0x13#7 rd rs1 shamt) = .ok i →
      decodeOpImm false (encodeR g7 f3 0x13#7 rd rs1 shamt) = .ok i := by
  obtain rfl | rfl := h3
  · simp only [decodeOpImm_slli, funct3_encodeR, funct7_encodeR, rd_encodeR, rs1_encodeR, shamt_encodeR,
      funct7Ok_loose_congr h7]
    exact ite_ok_mono id nofun
  · simp only [decodeOpImm_shiftRight, funct3_encodeR, funct7_encodeR, rd_encodeR, rs1_encodeR, shamt_encodeR,
      funct7Ok_loose_congr h7]
    exact ite_ok_mono id <| ite_ok_mono id nofun

/-- R72: an R-format word is read alike whatever the bits of funct7 other than bit 5 are. -/
theorem decodeOp_loose_congr {f7 g7 : BitVec 7} {f3 : BitVec 3} {rd rs1 rs2 : RegIdx} {i : Instr}
    (h7 : f7.getLsbD 5 = g7.getLsbD 5) :
    decodeOp false (encodeR f7 f3 0x33#7 rd rs1 rs2) = .ok i →
      decodeOp false (encodeR g7 f3 0x33#7 rd rs1 rs2) = .ok i := by
  simp only [decodeOp, funct3_encodeR, funct7_encodeR, rd_encodeR, rs1_encodeR, rs2_encodeR,
    funct7Ok_loose_congr h7]
  exact ite_ok_mono (ite_ok_mono id <| ite_ok_mono id nofun) <|
    ite_ok_mono (ite_ok_mono id <| ite_ok_mono id nofun) <| ite_ok_mono id nofun

/-! ### The whole word -/

theorem decodeWord_loose_opImm {w : Word} (ho : Field.opcode w = 0x13#7) (hw : w ≠ Config.core.haltWord) :
    decodeWord looseConfig w = decodeOpImm false w := by
  simp [decodeWord, ho, hw]

theorem decodeWord_loose_op {w : Word} (ho : Field.opcode w = 0x33#7) :
    decodeWord looseConfig w = decodeOp false w := by
  simp [decodeWord, ho, ne_haltWord_of_opcode]

/-- R72: in the other families STRICT_DECODE changes nothing. -/
theorem decodeWord_loose_eq_core {w : Word} (hi : Field.opcode w ≠ 0x13#7) (hr : Field.opcode w ≠ 0x33#7) :
    decodeWord looseConfig w = decodeWord Config.core w := by
  simp [decodeWord, hi, hr]

theorem decodeWord_loose_of_strict {w : Word} {i : Instr} (h : decodeWord Config.core w = .ok i) :
    decodeWord looseConfig w = .ok i := by
  by_cases hr : Field.opcode w = 0x33#7
  · rw [decodeWord_op hr] at h
    rw [decodeWord_loose_op hr, decodeOp_loose_of_strict h]
  by_cases hi : Field.opcode w = 0x13#7
  · by_cases hw : w = Config.core.haltWord
    · subst hw; exact h
    · rw [decodeWord_opImm hi hw] at h
      rw [decodeWord_loose_opImm hi hw, decodeOpImm_loose_of_strict h]
  · rw [decodeWord_loose_eq_core hi hr, h]

/-- R70: a shift-immediate is not the halt word, whose funct3 is 0. -/
theorem shiftImm_ne_haltWord {f7 : BitVec 7} {f3 : BitVec 3} {op : BitVec 7} {rd rs1 shamt : RegIdx}
    (h3 : f3 = 1#3 ∨ f3 = 5#3) : encodeR f7 f3 op rd rs1 shamt ≠ Config.core.haltWord := by
  apply ne_haltWord_of_funct3
  rcases h3 with rfl | rfl <;> simp

/-- Settles O11: the loose test of funct7 accepts what the strict one does, and reads bit 30 of the word only. -/
theorem looseDecodeLooksAtBit30Only : Obligations.LooseDecodeLooksAtBit30Only := by
  refine ⟨fun _ _ => decodeWord_loose_of_strict, fun f7 g7 f3 rd rs1 rs2 i h7 h => ?rFormat,
    fun f7 g7 f3 rd rs1 shamt i h7 h3 h => ?shiftImm, by decide, by decide⟩
  case rFormat =>
    rw [decodeWord_loose_op (opcode_encodeR ..)] at h ⊢
    exact decodeOp_loose_congr h7 h
  case shiftImm =>
    rw [decodeWord_loose_opImm (opcode_encodeR ..) (shiftImm_ne_haltWord h3)] at h ⊢
    exact decodeOpImm_loose_congr h7 h3 h

end Sys2Proof
end

section
/-! The pseudo-instructions' constants (R77). A word is rebuilt from its upper 20 and its sign-extended lower 12
bits, so the two instructions of li leave it in rd. -/

namespace Sys2Proof.Machine

/-- R77: the upper part of a word, rounded to the nearest multiple of 2^12. -/
theorem toNat_hi20_append (d : Word) : (hi20 d ++ 0#12).toNat = (d.toNat + 2048) % 2 ^ 32 / 4096 * 4096 := by
  rw [BitVec.toNat_append]
  simp only [hi20, BitVec.extractLsb'_toNat, BitVec.toNat_add, BitVec.toNat_ofNat, Nat.shiftRight_eq_div_pow,
    Nat.shiftLeft_eq, Nat.zero_mod, Nat.or_zero]
  omega

/-- R77: the rest, counted down from the next multiple of 2^12 in the upper half. -/
theorem toNat_signExtend_lo12 (d : Word) : ((lo12 d).signExtend 32).toNat =
    d.toNat % 4096 + if 2048 ≤ d.toNat % 4096 then 2 ^ 32 - 4096 else 0 := by
  simp only [lo12, BitVec.toNat_signExtend, BitVec.toNat_setWidth, BitVec.extractLsb'_toNat, Nat.shiftRight_zero,
    BitVec.msb_eq_decide, decide_eq_true_eq, Nat.add_one_sub_one]
  split_ifs <;> omega

theorem hi20_append_add_lo12 (d : Word) : (hi20 d ++ 0#12) + (lo12 d).signExtend 32 = d := by
  apply BitVec.eq_of_toNat_eq
  rw [BitVec.toNat_add, toNat_hi20_append, toNat_signExtend_lo12]
  split_ifs <;> omega

/-! ### Registers of the architectural state (R10) -/

@[simp] theorem setReg_setReg {α : Type} (t : Vector α nRegs) (r : RegIdx) (u v : α) :
    setReg (setReg t r u) r v = setReg t r v := by
  unfold setReg
  split_ifs
  · rfl
  · exact Vector.set_set ..

@[simp] theorem ArchState.x_zero (a : ArchState) : a.x 0#5 = 0#32 := if_pos rfl

theorem ArchState.x_setReg_same {a : ArchState} {r : RegIdx} (h : r ≠ 0#5) (v : Word) (pc : Addr) :
    ({ a with regs := setReg a.regs r v, pc := pc } : ArchState).x r = v := by
  simp [ArchState.x, h, setReg_get]

/-! ### li (R77) -/

theorem expand_li_short {rd : RegIdx} {v : Word} (h : (lo12 v).signExtend 32 = v) :
    (Pseudo.li rd v).expand = [.addi rd 0#5 (lo12 v)] := if_pos h

theorem expand_li_long {rd : RegIdx} {v : Word} (h : (lo12 v).signExtend 32 ≠ v) :
    (Pseudo.li rd v).expand = [.lui rd (hi20 v), .addi rd rd (lo12 v)] := if_neg h

/-- R70: the halt sentinel reads x10, so an addi from x0 is well-formed. -/
theorem wellFormed_addi_zero (rd : RegIdx) (imm : BitVec 12) : (Instr.addi rd 0#5 imm).wellFormed = true := by
  simp [Instr.wellFormed, notHaltShaped]

/-- R139: an addi from x0 loads its immediate. -/
theorem archExec_addi_zero (a : ArchState) (rd : RegIdx) (imm : BitVec 12) :
    archExec (.addi rd 0#5 imm) a = a.write rd (imm.signExtend 32) (a.pc + 4#32) := by
  simp [archExec, immediate12]

/-- R137, R139: an addi to the register that a lui has written adds to the lui's value. -/
theorem archExec_addi_of_lui {rd : RegIdx} (h : rd ≠ 0#5) (a : ArchState) (hi : BitVec 20) (lo : BitVec 12) :
    archExec (.addi rd rd lo) { a with regs := setReg a.regs rd (immediateU hi), pc := a.pc + 4#32 } =
      a.write rd ((hi ++ 0#12) + lo.signExtend 32) (a.pc + 8#32) := by
  simp [archExec, ArchState.write, ArchState.x_setReg_same h, immediateU, immediate12, BitVec.add_assoc]

/-- Settles O13: the second word of li adds to what the first one left in rd; only it can have the halt's word. -/
theorem pseudoInstructionsRebuildTheirOperand : Obligations.PseudoInstructionsRebuildTheirOperand := by
  refine ⟨hi20_append_add_lo12, fun a rd v hrd _ => ?run, fun rd v => ?illFormed⟩
  case run =>
    by_cases hv : (lo12 v).signExtend 32 = v
    · simp [expand_li_short hv, archExec_addi_zero, hv, ArchState.write]
    · have hlui : archExec (.lui rd (hi20 v)) a =
          .next { a with regs := setReg a.regs rd (immediateU (hi20 v)), pc := a.pc + 4#32 } := rfl
      simp [expand_li_long hv, hlui, archExec_addi_of_lui hrd, hi20_append_add_lo12, ArchState.write]
  case illFormed =>
    rintro ⟨i, hi, hwf⟩
    by_cases hv : (lo12 v).signExtend 32 = v
    · rw [expand_li_short hv, List.mem_singleton] at hi
      rw [hi, wellFormed_addi_zero] at hwf
      cases hwf
    · rw [expand_li_long hv]
      rw [expand_li_long hv, List.mem_pair] at hi
      obtain rfl | rfl := hi
      · cases hwf
      · obtain ⟨rfl, -, hlo⟩ := eq_of_notHaltShaped_eq_false hwf
        have hword : encode (.addi 10#5 10#5 (lo12 v)) = 0x0FF50513#32 := hlo ▸ encode_addi_haltShaped
        exact ⟨rfl, hlo, _, _, rfl, hword, hword ▸ decodeWord_halt⟩

end Sys2Proof.Machine
end

section
/-! The step of a running machine and of an ended run (R79, R87), and the driver's count and check after each tick (R86,
R87). -/

namespace Sys2Proof.Machine

/-- Settles O1: the decoded word chooses which exec the step is. -/
theorem stepRunsDecodedInstruction : Obligations.StepRunsDecodedInstruction :=
  fun _ _ => step_known

/-- Settles O5: each status but Running answers the fault of the ended run. -/
theorem endedRunTakesNoStep : Obligations.EndedRunTakesNoStep :=
  fun _ => step_ended

/-! ### The driver (R86, R87) -/

/-- A next state of the machine with parameters is a tick's, of what is fetched at the speculated PC. -/
theorem eq_afterSync_of_stepWith {cfg : Config} {s t : State} (h : stepWith cfg s = .next t) :
    t = afterSync cfg (unitsNext cfg (fetched cfg s) s) := by
  by_cases hr : s.drv.status = .running
  · cases ho : outsideMemory cfg s with
    | some a =>
      simp only [stepWith, hr, ho] at h
      cases h
    | none =>
      simp only [stepWith, hr, ho] at h
      exact (tick_next_iff.1 h).2.2
  · rw [stepWith_ended hr] at h
    cases h

theorem statusAfter_of_marked {cfg : Config} {c : Csu} (h : haltMarked cfg c = true) (n : Nat) :
    statusAfter cfg c n = .halted (c.haltSignal.setWidth 8) := by
  simp [statusAfter, h]

theorem statusAfter_of_cap_reached {cfg : Config} {c : Csu} {n cap : Nat} (h : haltMarked cfg c = false)
    (hc : cfg.maxCycles = some cap) (hn : cap ≤ n) : statusAfter cfg c n = .capped := by
  simp [statusAfter, h, hc, hn]

theorem statusAfter_of_below_cap {cfg : Config} {c : Csu} {n : Nat} (h : haltMarked cfg c = false)
    (hn : ∀ cap, cfg.maxCycles = some cap → n < cap) : statusAfter cfg c n = .running := by
  cases hc : cfg.maxCycles with
  | none => simp [statusAfter, h, hc]
  | some cap => simp [statusAfter, h, hc, hn cap hc]

/-- Settles O52: the sync counts the tick and looks for the marker before the cap, and no unit's step reads the
driver. -/
theorem cycleCountsAndTerminationOrder : Obligations.CycleCountsAndTerminationOrder := by
  refine ⟨fun cap s t h => ?sync, fun i s t u c ht hu => ?units, rfl⟩
  case sync =>
    have hs := eq_afterSync_of_stepWith h
    have hstatus : t.drv.status = statusAfter { Config.core with maxCycles := cap } t.csu t.drv.cycle := by
      rw [hs]; rfl
    have hmark : haltMarked { Config.core with maxCycles := cap } t.csu = t.csu.haltSignal.getLsbD 8 := rfl
    refine ⟨by rw [hs]; rfl, fun hm => ?_, fun hm => ⟨fun ⟨n, hn, hle⟩ => ?_, fun hlt => ?_⟩⟩
    · rw [hstatus, statusAfter_of_marked (hmark.trans hm)]
    · rw [hstatus, statusAfter_of_cap_reached (hmark.trans hm) hn hle]
    · rw [hstatus, statusAfter_of_below_cap (hmark.trans hm) hlt]
  case units =>
    obtain ⟨-, -, rfl⟩ := exec_next_iff.1 ht
    obtain ⟨-, -, rfl⟩ := exec_next_iff.1 hu
    exact ⟨rfl, rfl, rfl, rfl, rfl, rfl⟩

end Sys2Proof.Machine
end

section
/-! The flush tick (R85): it raises no fault, whatever was fetched, and leaves nothing in flight in any unit. -/

namespace Sys2Proof.Machine

/-- R83, R85: in a flush tick no unit does anything that could fault; only the pointers are checked (R24). -/
theorem tickFaults_of_flush {cfg : Config} {s : State} (hp : s.csu.pointersOk = true) (hf : s.csu.flushReq = true)
    (f : Fetched) : tickFaults cfg f s = [] :=
  tickFaults_nil.2 ⟨by simp [csuFaults, hp, hf], by simp [rsFaults, hf], by simp [lsqFaults, hf],
    by simp [aluFaults, hf], by simp [memFaults, hf]⟩

theorem refusedFetch_of_flush {s : State} (hf : s.csu.flushReq = true) (f : Fetched) : refusedFetch f s = none := by
  simp [refusedFetch, hf]

theorem exec_of_flush {s : State} (hp : s.csu.pointersOk = true) (hf : s.csu.flushReq = true) (i : Instr) :
    exec i s = .next (afterSync Config.core (unitsNext Config.core (.known (issueReqOf i)) s)) :=
  exec_next_iff.2 ⟨refusedFetch_of_flush hf _, tickFaults_of_flush hp hf _, rfl⟩

theorem memWriting_of_flush {s : State} (hf : s.csu.flushReq = true) : memWriting s = none :=
  memWriting_of_not_performing (memPerforming_of_flush hf)

theorem isBusy_of_flush {s : State} (hf : s.csu.flushReq = true) (r : RegIdx) : (rfNext s).isBusy r = false := by
  simp [RegFile.isBusy, rfBusyNext_of_flush hf]

/-- Settles O42, one unit after the other. -/
theorem flushTickEmptiesEveryUnit : Obligations.FlushTickEmptiesEveryUnit := by
  intro i s hi hf
  refine ⟨_, exec_of_flush hi.pointers hf i, ?csu, ?rs, ?lsq, aluNext_of_flush hf, ?mem, isBusy_of_flush hf⟩
  case csu =>
    rw [csu_of_flushTick hf]
    refine ⟨fun j => ?_, rfl, rfl, rfl, rfl, rfl, rfl, rfl, rfl, rfl, rfl⟩
    rw [csuFlushed_rob_get]
    exact RobEntry.empty_isCleared
  all_goals have hd := Drained.of_flushTick (f := .known (issueReqOf i)) hf
  case rs => exact ⟨hd.rsEmpty, hd.noDispatch⟩
  case lsq => exact ⟨hd.lsqEmpty, if_pos hf, if_pos hf, hd.lsqCount, hd.noRequest⟩
  case mem =>
    refine ⟨hd.memFree, hd.noPending, hd.noMemOut, fun j => ?_, ?_⟩
    · rw [afterSync_mem, unitsNext_mem, memNext_playback_get, memPlaybackNext_of_flush hf]
    · simp [memNext, memWriting_of_flush hf]

end Sys2Proof.Machine
end

section
/-! What a tick makes of the word at the speculated PC (R80, R104): the CSU's issue and nothing else, so that a tick at
an Unknown word and one at an instruction differ in what is issued only. -/

namespace Sys2Proof.Machine

/-! ### The CSU reads what was fetched in order to issue it (R97, R104) -/

section Fetched

variable {cfg : Config} {s : State}

theorem csuNext_congr {f g : Fetched} (h : issuing cfg s f = issuing cfg s g) :
    csuNext cfg f s = csuNext cfg g s := by
  have hrob : robEntryNext cfg s f = robEntryNext cfg s g := by
    funext i
    simp only [robEntryNext, h]
  simp only [csuNext, specPcNext, jalrWaitNext, robCountNext, hrob, h]

/-- R108: the record issued goes into the tail entry. -/
theorem robEntryNext_of_ne_tail {i : RobIdx} (hi : i ≠ s.csu.robTail) (f g : Fetched) :
    robEntryNext cfg s f i = robEntryNext cfg s g i := by
  simp only [robEntryNext, hi, if_false]
  cases issuing cfg s f <;> cases issuing cfg s g <;> rfl

theorem csuNext_rob_of_ne_tail (f g : Fetched) {k : RobIdx} (hk : k ≠ s.csu.robTail) :
    (csuNext cfg f s).rob[k] = (csuNext cfg g s).rob[k] := by
  cases hf : s.csu.flushReq with
  | true => rw [csuNext_of_flush _ _ hf, csuNext_of_flush _ _ hf]
  | false =>
    rw [csuNext_rob_get _ _ hf, csuNext_rob_get _ _ hf, robEntryNext_of_ne_tail hk f g]

/-- R97: commit does not read what was fetched. -/
theorem csuNext_commit_fields (f g : Fetched) :
    (csuNext cfg f s).commit = (csuNext cfg g s).commit ∧ (csuNext cfg f s).archPc = (csuNext cfg g s).archPc ∧
      (csuNext cfg f s).robHead = (csuNext cfg g s).robHead ∧
      (csuNext cfg f s).haltSignal = (csuNext cfg g s).haltSignal ∧
      (csuNext cfg f s).flushReq = (csuNext cfg g s).flushReq := by
  cases hf : s.csu.flushReq with
  | true => simp only [csuNext_of_flush _ _ hf, and_self]
  | false =>
    simp only [csuNext_commit _ _ hf, csuNext_archPc _ _ hf, csuNext_robHead _ _ hf, csuNext_haltSignal _ _ hf,
      csuNext_flushReq _ _ hf, and_self]

theorem csuNext_eq_of_issue_none {f g : Fetched} (hf : (csuNext cfg f s).issue = none)
    (hg : (csuNext cfg g s).issue = none) : csuNext cfg f s = csuNext cfg g s := by
  cases hq : s.csu.flushReq with
  | true => rw [csuNext_of_flush _ _ hq, csuNext_of_flush _ _ hq]
  | false =>
    rw [csuNext_issue _ _ hq, Option.map_eq_none_iff] at hf hg
    exact csuNext_congr (hf.trans hg.symm)

/-- R87: the driver's check reads the halt signal only. -/
theorem statusAfter_congr {c d : Csu} (h : c.haltSignal = d.haltSignal) (n : Nat) :
    statusAfter cfg c n = statusAfter cfg d n := by
  rw [statusAfter, statusAfter, haltMarked, haltMarked, h]

end Fetched

/-! ### A tick at an Unknown word (R105) -/

theorem eq_afterSync_of_exec_or_unknownTick {s t : State}
    (h : (∃ i, exec i s = .next t) ∨ ∃ w, unknownTick w s = .next t) :
    ∃ f, t = afterSync Config.core (unitsNext Config.core f s) := by
  obtain ⟨i, h⟩ | ⟨w, h⟩ := h
  · exact ⟨_, (exec_next_iff.1 h).2.2⟩
  · exact ⟨_, (tick_next_iff.1 h).2.2⟩

theorem csuNext_issue_unknown (cfg : Config) (w : Word) (s : State) : (csuNext cfg (.unknown w) s).issue = none := by
  cases hf : s.csu.flushReq with
  | true => rw [csuNext_of_flush _ _ hf, csuFlushed_issue]
  | false => rw [csuNext_issue _ _ hf, issuing_unknown, Option.map_none]

/-- R61: an instruction at the speculated PC adds no refusal to those of an Unknown word there. -/
theorem refusedFetch_known_of_unknown {s : State} {w : Word} (h : refusedFetch (.unknown w) s = none)
    (r : IssueReq) : refusedFetch (.known r) s = none := by
  rw [Option.eq_none_iff_forall_ne_some]
  intro pc hk
  obtain ⟨hf, hc, hs, hpc⟩ := refusedFetch_known_eq_some.1 hk
  have hu := refusedFetch_unknown_eq_some (w := w).2 ⟨hf, .inl ⟨hc, hs, hpc⟩⟩
  rw [h] at hu
  cases hu

/-- R112: while an instruction issues no jalr is unresolved, so none completes. -/
theorem PipelineInv.jalrCompletes_of_issuing {s : State} (hi : PipelineInv s) {f g : Fetched} {r : IssueReq}
    (h : tickFaults Config.core f s = []) (hf : s.csu.flushReq = false) (hr : issuing Config.core s g = some r) :
    jalrCompletes s = none := by
  cases ho : s.alu.out with
  | none => simp [jalrCompletes, ho]
  | some o =>
    have hj : (s.csu.rob[o.rob]).cls ≠ .jalr := fun hc =>
      hi.not_issuing_of_jalr ⟨hc, .inr (noFault_aluOut h hf ho)⟩ hr
    simp only [jalrCompletes, ho, if_neg hj]

/-- R81: issuing an instruction stages no cell twice in a tick that raises no fault at another word. -/
theorem PipelineInv.csuDoubleWrites_eq_nil {s : State} (hi : PipelineInv s) {f : Fetched}
    (h : tickFaults Config.core f s = []) (hf : s.csu.flushReq = false) (g : Fetched) :
    csuDoubleWrites Config.core s g = [] := by
  have houts := noFault_csuDoubleWrites h hf
  simp only [csuDoubleWrites, List.append_eq_nil_iff] at houts ⊢
  obtain ⟨⟨hcompletions, -⟩, -⟩ := houts
  cases hr : issuing Config.core s g with
  | none => exact ⟨⟨hcompletions, rfl⟩, rfl⟩
  | some r =>
    obtain ⟨-, -, hroom, -⟩ := issuing_some hr
    have htail := noFault_tail_of_room h hf hroom
    have hjalr := hi.jalrCompletes_of_issuing h hf hr
    exact ⟨⟨hcompletions, by simp [htail]⟩, by simp [hjalr]⟩

theorem PipelineInv.tickFaults_known_of_unknown {s : State} (hi : PipelineInv s) {w : Word}
    (h : tickFaults Config.core (.unknown w) s = []) (hf : s.csu.flushReq = false) (r : IssueReq) :
    tickFaults Config.core (.known r) s = [] := by
  obtain ⟨hcsu, hrest⟩ := tickFaults_nil.1 h
  refine tickFaults_nil.2 ⟨?_, hrest⟩
  simp only [csuFaults, hf, Bool.false_eq_true, if_false, List.append_eq_nil_iff] at hcsu ⊢
  obtain ⟨hptr, ⟨⟨-, halu⟩, hmem⟩, -⟩ := hcsu
  exact ⟨hptr, ⟨⟨rfl, halu⟩, hmem⟩, hi.csuDoubleWrites_eq_nil h hf _⟩

/-- With the pipeline invariant every instruction has a next state where an Unknown word has one. -/
theorem PipelineInv.exec_next_of_unknownTick {s t : State} {w : Word} (hi : PipelineInv s)
    (h : unknownTick w s = .next t) (i : Instr) : ∃ u, exec i s = .next u := by
  obtain ⟨href, hfault, -⟩ := tick_next_iff.1 h
  cases hf : s.csu.flushReq with
  | true => exact ⟨_, exec_of_flush hi.pointers hf i⟩
  | false =>
    exact ⟨_, exec_next_iff.2
      ⟨refusedFetch_known_of_unknown href _, hi.tickFaults_known_of_unknown hfault hf _, rfl⟩⟩

/-- Settles O54: only the CSU's step is given what was fetched, and of that only what it issues. -/
theorem otherUnitsIgnoreTheFetchedInstruction : Obligations.OtherUnitsIgnoreTheFetchedInstruction := by
  refine ⟨fun s t u ht hu => ?agree, fun s e => step_unknown, fun w s t h => ⟨?issue, fun hf => ?tail, fun hi =>
    hi.exec_next_of_unknownTick h⟩⟩
  case agree =>
    obtain ⟨f, rfl⟩ := eq_afterSync_of_exec_or_unknownTick ht
    obtain ⟨g, rfl⟩ := eq_afterSync_of_exec_or_unknownTick hu
    obtain ⟨hcommit, hpc, hhead, hhalt, hflush⟩ := csuNext_commit_fields (cfg := Config.core) (s := s) f g
    have hdrv : (afterSync Config.core (unitsNext Config.core f s)).drv =
        (afterSync Config.core (unitsNext Config.core g s)).drv :=
      congrArg (Driver.mk _) (statusAfter_congr hhalt _)
    exact ⟨⟨rfl, rfl, rfl, rfl, rfl, hdrv, rfl⟩, ⟨hcommit, hpc, hhead, hhalt, hflush⟩,
      fun k => csuNext_rob_of_ne_tail f g, csuNext_eq_of_issue_none⟩
  all_goals obtain ⟨-, -, rfl⟩ := tick_next_iff.1 h
  case issue => exact csuNext_issue_unknown _ _ _
  case tail => exact csuNext_robTail _ _ hf

end Sys2Proof.Machine
end

section
/-! The Register File's tick (R90 to R95): a register's value, mark and producer after it, by what the commit latch and
the issue latch name. -/

namespace Sys2Proof.Machine

theorem RegFile.read_of_ne_zero (rf : RegFile) {r : RegIdx} (hr : r ≠ 0#5) : rf.read r = rf.value[r.toNat]'r.isLt :=
  if_neg hr

theorem RegFile.isBusy_of_ne_zero (rf : RegFile) {r : RegIdx} (hr : r ≠ 0#5) :
    rf.isBusy r = rf.busy[r.toNat]'r.isLt :=
  if_neg hr

section RegisterTick

variable {s : State} {r : RegIdx}

/-! ### The value (R90, R91) -/

theorem rfNext_read_of_commit {k : CommitLatch} (hk : s.csu.commit = some k) (hd : k.hasRd = true)
    (hr : k.rd ≠ 0#5) : (rfNext s).read k.rd = k.value := by
  rw [RegFile.read_of_ne_zero _ hr, rfNext_value, rfValueNext_of_commit hk hd, setReg_get, if_pos ⟨rfl, hr⟩]

theorem rfNext_read_of_not_commit (hr : r ≠ 0#5)
    (hn : ∀ k, s.csu.commit = some k → ¬ (k.hasRd = true ∧ k.rd = r)) : (rfNext s).read r = s.rf.read r := by
  rw [RegFile.read_of_ne_zero _ hr, RegFile.read_of_ne_zero _ hr, rfNext_value]
  cases hk : s.csu.commit with
  | none => rw [rfValueNext_of_noCommit hk]
  | some k =>
    cases hd : k.hasRd with
    | false => rw [rfValueNext_of_commit_noRd hk hd]
    | true =>
      rw [rfValueNext_of_commit hk hd, setReg_get, if_neg]
      exact fun ⟨he, _⟩ => hn k hk ⟨hd, he.symm⟩

/-! ### The producer table in a flush tick (R94) -/

theorem rfNext_producerOf_of_flush (hf : s.csu.flushReq = true) : (rfNext s).producerOf r = s.rf.producerOf r := by
  simp [RegFile.producerOf, rfProducerNext, hf]

/-! ### The producer table in any other tick (R90 to R93) -/

/-- R92, R93: the new producer is recorded and the register marked, whatever commits. -/
theorem rfNext_busy_of_issue (hf : s.csu.flushReq = false) {u : IssueLatch} (hu : s.csu.issue = some u)
    (hd : u.hasRd = true) (hr : u.rd ≠ 0#5) :
    (rfNext s).isBusy u.rd = true ∧ (rfNext s).producerOf u.rd = u.rob := by
  constructor
  · simp [RegFile.isBusy_of_ne_zero _ hr, rfBusyNext, hf, hu, hd, setReg_get, hr]
  · simp [RegFile.producerOf, rfProducerNext, hf, hu, hd, setReg_get, hr]

/-- R91: the marks after the commit's part of the tick, before the issue's. -/
def busyAfterCommit (s : State) : Vector Bool nRegs :=
  match s.csu.commit with
  | some c => if clearsBusy s c then setReg s.rf.busy c.rd false else s.rf.busy
  | none => s.rf.busy

/-- R93: the issue latch's destination, if it has one, is the only register that the issue's part stages. -/
theorem rfNext_tables_cases (hf : s.csu.flushReq = false) :
    (∃ u, s.csu.issue = some u ∧ u.hasRd = true ∧ (rfNext s).busy = setReg (busyAfterCommit s) u.rd true ∧
        (rfNext s).producer = setReg s.rf.producer u.rd u.rob) ∨
      ((rfNext s).busy = busyAfterCommit s ∧ (rfNext s).producer = s.rf.producer) := by
  simp only [rfNext_busy, rfNext_producer, rfBusyNext, rfProducerNext, hf, Bool.false_eq_true, if_false]
  cases s.csu.issue with
  | none => exact .inr ⟨rfl, rfl⟩
  | some u =>
    by_cases hd : u.hasRd = true
    · exact .inl ⟨u, rfl, hd, if_pos hd, if_pos hd⟩
    · exact .inr ⟨if_neg hd, if_neg hd⟩

/-- A register that nothing is issued to takes no part in the issue's part of the tick. -/
theorem rfNext_tables_of_not_issue (hf : s.csu.flushReq = false)
    (hn : ∀ u, s.csu.issue = some u → ¬ (u.hasRd = true ∧ u.rd = r)) :
    (rfNext s).busy[r.toNat]'r.isLt = (busyAfterCommit s)[r.toNat]'r.isLt ∧
      (rfNext s).producerOf r = s.rf.producerOf r := by
  rw [RegFile.producerOf, RegFile.producerOf]
  obtain ⟨u, hu, hd, hb, hp⟩ | ⟨hb, hp⟩ := rfNext_tables_cases hf
  · have other : ¬ (r = u.rd ∧ u.rd ≠ 0#5) := fun ⟨he, _⟩ => hn u hu ⟨hd, he.symm⟩
    simp only [hb, hp, setReg_get, if_neg other, and_self]
  · simp only [hb, hp, and_self]

/-- R90: where nothing is issued to the committed register, its mark is cleared if the entry is still the producer. -/
theorem clearsBusy_iff_of_not_issue {k : CommitLatch}
    (hn : ∀ u, s.csu.issue = some u → ¬ (u.hasRd = true ∧ u.rd = k.rd)) :
    clearsBusy s k = true ↔ k.hasRd = true ∧ s.rf.isBusy k.rd = true ∧ s.rf.producerOf k.rd = k.rob := by
  simp only [clearsBusy, Bool.and_eq_true, Bool.not_eq_true', beq_iff_eq, and_assoc]
  refine and_congr_right fun _ => and_congr_right fun _ => and_iff_left ?_
  split
  next u hu => simpa using hn u hu
  next => rfl

theorem busyAfterCommit_get_iff (hr : r ≠ 0#5)
    (hn : ∀ u, s.csu.issue = some u → ¬ (u.hasRd = true ∧ u.rd = r)) :
    (busyAfterCommit s)[r.toNat]'r.isLt = true ↔
      s.rf.isBusy r = true ∧
        ∀ k, s.csu.commit = some k → ¬ (k.hasRd = true ∧ k.rd = r ∧ s.rf.producerOf r = k.rob) := by
  rw [busyAfterCommit]
  split
  next k hk =>
    simp only [hk, Option.some.injEq, forall_eq']
    by_cases hkr : k.rd = r
    · subst hkr
      split
      next hc =>
        obtain ⟨hd, -, hp⟩ := (clearsBusy_iff_of_not_issue hn).1 hc
        simp [setReg_get, hr, hd, hp]
      next hc =>
        rw [clearsBusy_iff_of_not_issue hn] at hc
        rw [← RegFile.isBusy_of_ne_zero _ hr]
        exact ⟨fun hb => ⟨hb, fun ⟨hd, _, hp⟩ => hc ⟨hd, hb, hp⟩⟩, And.left⟩
    · have other : (setReg s.rf.busy k.rd false)[r.toNat]'r.isLt = s.rf.busy[r.toNat]'r.isLt := by
        rw [setReg_get, if_neg fun ⟨he, _⟩ => hkr he.symm]
      split <;> simp [RegFile.isBusy_of_ne_zero _ hr, hkr, other]
  next hk => simp [RegFile.isBusy_of_ne_zero _ hr, hk]

/-- R90, R91: with nothing issued to it, a register loses its mark to the commit of its producer only. -/
theorem rfNext_isBusy_of_not_issue (hf : s.csu.flushReq = false) (hr : r ≠ 0#5)
    (hn : ∀ u, s.csu.issue = some u → ¬ (u.hasRd = true ∧ u.rd = r)) :
    (rfNext s).isBusy r = true ↔
      s.rf.isBusy r = true ∧
        ∀ k, s.csu.commit = some k → ¬ (k.hasRd = true ∧ k.rd = r ∧ s.rf.producerOf r = k.rob) := by
  rw [RegFile.isBusy_of_ne_zero _ hr, (rfNext_tables_of_not_issue hf hn).1, busyAfterCommit_get_iff hr hn]

end RegisterTick

/-- Settles O32, by what the commit latch and the issue latch name. -/
theorem registerFileTick : Obligations.RegisterFileTick := by
  intro i s t h
  obtain ⟨-, -, rfl⟩ := exec_next_iff.1 h
  rw [afterSync_rf, unitsNext_rf]
  refine ⟨⟨RegFile.read_zero _, RegFile.isBusy_zero _⟩, fun r hr => ⟨?commits, rfNext_read_of_not_commit hr,
    fun hf => ⟨isBusy_of_flush hf r, rfNext_producerOf_of_flush hf⟩, fun hf => ⟨?issues, fun hn =>
      ⟨(rfNext_tables_of_not_issue hf hn).2, rfNext_isBusy_of_not_issue hf hr hn⟩⟩⟩⟩
  case commits =>
    rintro k hk hd rfl
    exact rfNext_read_of_commit hk hd hr
  case issues =>
    rintro u hu hd rfl
    exact rfNext_busy_of_issue hf hu hd hr

end Sys2Proof.Machine
end

section
/-! The producer table (R96): which entries will write a register after a plain tick, and the order of their age, which
no tick changes. -/

namespace Sys2Proof.Machine

/-! ### Age in the buffer (R24) -/

section Ring

variable {head i j : Fin 32}

theorem ring_age_injective (h : (i.val + 32 - head.val) % 32 = (j.val + 32 - head.val) % 32) : i = j := by
  omega

theorem ring_age_le_last {tail : Fin 32} {count : Nat} (ht : tail.val = (head.val + count) % 32) (hc : count ≤ 32)
    (hj : j + 1 = tail) (hi : (i.val + 32 - head.val) % 32 < count) :
    (i.val + 32 - head.val) % 32 ≤ (j.val + 32 - head.val) % 32 := by
  rw [← hj, Fin.val_add, Fin.val_one] at ht
  omega

theorem ring_age_le_iff_of_pop (hi : i ≠ head) (hj : j ≠ head) :
    (i.val + 32 - (head + 1).val) % 32 ≤ (j.val + 32 - (head + 1).val) % 32 ↔
      (i.val + 32 - head.val) % 32 ≤ (j.val + 32 - head.val) % 32 := by
  rw [Fin.val_add, Fin.val_one]
  omega

end Ring

theorem robAge_head (c : Csu) : robAge c c.robHead = 0 := by
  simp [robAge]

theorem robAge_injective (c : Csu) : Function.Injective (robAge c) := fun _ _ => ring_age_injective

/-- R108: no live entry is younger than the last one allocated. -/
theorem robAge_le_last {c : Csu} (hp : c.pointersOk = true) {i j : RobIdx} (hj : j + 1 = c.robTail)
    (hi : (c.rob[i]).state ≠ .empty) : robAge c i ≤ robAge c j := by
  obtain ⟨hc, ht, hl⟩ := (pointersOk_iff c).1 hp
  exact ring_age_le_last ht hc hj (of_decide_eq_true ((hl i).1 hi))

theorem youngestWriter_unique {s : State} {r : RegIdx} {i j : RobIdx} (hi : youngestWriter s r i)
    (hj : youngestWriter s r j) : i = j :=
  robAge_injective s.csu (le_antisymm (hj.2 i hi.1) (hi.2 j hj.1))

/-- R96: entry `i` is occupied and will write `r`, in the issue latch or not. -/
def occupiedWriter (s : State) (r : RegIdx) (i : RobIdx) : Prop :=
  (s.csu.rob[i]).state ≠ .empty ∧ (s.csu.rob[i]).hasRd = true ∧ (s.csu.rob[i]).rd = r

theorem willWrite_iff {s : State} (hp : s.csu.pointersOk = true) {r : RegIdx} {i : RobIdx} :
    willWrite s r i ↔ occupiedWriter s r i ∧ ∀ u, s.csu.issue = some u → u.rob ≠ i := by
  rw [willWrite, ← ((pointersOk_iff _).1 hp).2.2 i, occupiedWriter]
  tauto

namespace PlainTick

variable {f : Fetched} {s t : State} {r : RegIdx} {i j : RobIdx}

/-- R99: a commit makes every entry that stays one place older. -/
theorem robAge_le_iff (h : PlainTick f s t) (hi : s.csu.commits = true → i ≠ s.csu.robHead)
    (hj : s.csu.commits = true → j ≠ s.csu.robHead) :
    robAge t.csu i ≤ robAge t.csu j ↔ robAge s.csu i ≤ robAge s.csu j := by
  rw [robAge, robAge, robAge, robAge, h.csu, csuNext_robHead _ _ h.noFlush]
  cases hc : s.csu.commits with
  | false => rfl
  | true => exact ring_age_le_iff_of_pop (hi hc) (hj hc)

/-- An entry that stays keeps its destination. -/
theorem rob_dest (h : PlainTick f s t) (hi : (s.csu.rob[i]).state ≠ .empty)
    (hc : s.csu.commits = true → i ≠ s.csu.robHead) :
    (t.csu.rob[i]).hasRd = (s.csu.rob[i]).hasRd ∧ (t.csu.rob[i]).rd = (s.csu.rob[i]).rd := by
  have hm := h.rob i
  generalize t.csu.rob[i] = e at hm
  cases hm with
  | commit hc' hi' => exact absurd hi' (hc hc')
  | issue _ _ _ he => exact absurd he hi
  | aluDone | memDone | start | keep => exact ⟨rfl, rfl⟩

/-- R96: the writers after the tick are those there were, the issued one with them, but for the committing head. -/
theorem willWrite_iff (h : PlainTick f s t) :
    willWrite t r i ↔ occupiedWriter s r i ∧ (s.csu.commits = true → i ≠ s.csu.robHead) := by
  rw [Machine.willWrite_iff h.pointersOk, occupiedWriter, h.rob_occupied_iff]
  constructor
  · rintro ⟨⟨⟨hc, hi⟩ | ⟨hs, rfl⟩, hd⟩, hu⟩
    · obtain ⟨hrd, hreg⟩ := h.rob_dest hi hc
      rw [hrd, hreg] at hd
      exact ⟨⟨hi, hd⟩, hc⟩
    · obtain ⟨q, hq⟩ := Option.isSome_iff_exists.1 hs
      exact absurd rfl (hu _ (h.issue_eq_some.2 ⟨q, hq, rfl⟩))
  · rintro ⟨⟨hi, hd⟩, hc⟩
    obtain ⟨hrd, hreg⟩ := h.rob_dest hi hc
    refine ⟨⟨.inl ⟨hc, hi⟩, hrd ▸ hreg ▸ hd⟩, fun u hu hui => ?_⟩
    obtain ⟨q, hq, rfl⟩ := h.issue_eq_some.1 hu
    exact hi (hui ▸ h.tail_empty_of_issuing hq)

/-- R108, R102: the entry in the issue latch, Issued and so not committing, is the youngest of all. -/
theorem youngestWriter_of_issue (h : PlainTick f s t) (hi : PipelineInv s) (ha : issueLatchAgrees s) {u : IssueLatch}
    (hu : s.csu.issue = some u) (hd : u.hasRd = true) : youngestWriter t u.rd u.rob := by
  obtain ⟨hrd, hreg, hlast⟩ := ha u hu
  have hs := (hi.issueEntry u hu).1
  have stays : s.csu.commits = true → u.rob ≠ s.csu.robHead := by
    intro hc e
    simp only [e, ((commits_iff _).1 hc).2, reduceCtorEq] at hs
  refine ⟨h.willWrite_iff.2 ⟨⟨by rw [hs]; simp, hrd.trans hd, hreg⟩, stays⟩, fun j hj => ?_⟩
  obtain ⟨⟨hj, -⟩, hc⟩ := h.willWrite_iff.1 hj
  exact (h.robAge_le_iff hc stays).2 (robAge_le_last hi.pointers hlast hj)

/-- With no issue to `r`, only the committing head can leave its writers. -/
theorem willWrite_iff_of_not_issue (h : PlainTick f s t) (ha : issueLatchAgrees s)
    (hn : ∀ u, s.csu.issue = some u → ¬ (u.hasRd = true ∧ u.rd = r)) :
    willWrite t r i ↔ willWrite s r i ∧ (s.csu.commits = true → i ≠ s.csu.robHead) := by
  rw [h.willWrite_iff, Machine.willWrite_iff (noFault_pointers h.noFault), and_assoc]
  refine and_congr_right fun ⟨_, hd, hreg⟩ => (and_iff_right ?_).symm
  rintro u hu rfl
  obtain ⟨hrd, hrd', -⟩ := ha u hu
  exact hn u hu ⟨hrd ▸ hd, hrd' ▸ hreg⟩

theorem youngestWriter_of_not_issue (h : PlainTick f s t) (ha : issueLatchAgrees s)
    (hn : ∀ u, s.csu.issue = some u → ¬ (u.hasRd = true ∧ u.rd = r)) (hy : youngestWriter t r i) :
    youngestWriter s r i := by
  obtain ⟨hw, hmax⟩ := hy
  obtain ⟨hwi, hci⟩ := (h.willWrite_iff_of_not_issue ha hn).1 hw
  refine ⟨hwi, fun j hj => ?_⟩
  by_cases hcj : s.csu.commits = true ∧ j = s.csu.robHead
  · rw [hcj.2, robAge_head]
    exact Nat.zero_le _
  · have hcj : s.csu.commits = true → j ≠ s.csu.robHead := fun hc e => hcj ⟨hc, e⟩
    exact (h.robAge_le_iff hcj hci).1 (hmax j ((h.willWrite_iff_of_not_issue ha hn).2 ⟨hj, hcj⟩))

/-- The last writer of `r` leaves by committing, as the head. -/
theorem youngestWriter_head_of_none (h : PlainTick f s t) (ha : issueLatchAgrees s)
    (hn : ∀ u, s.csu.issue = some u → ¬ (u.hasRd = true ∧ u.rd = r)) (hw : willWrite s r i)
    (hnone : ∀ j, ¬ willWrite t r j) : s.csu.commits = true ∧ youngestWriter s r s.csu.robHead := by
  have leaves {j : RobIdx} (hj : willWrite s r j) : s.csu.commits = true ∧ j = s.csu.robHead := by
    by_contra hc
    exact hnone j ((h.willWrite_iff_of_not_issue ha hn).2 ⟨hj, fun h1 h2 => hc ⟨h1, h2⟩⟩)
  obtain ⟨hc, rfl⟩ := leaves hw
  exact ⟨hc, hw, fun j hj => by rw [(leaves hj).2]⟩

/-- R108: what is issued is allocated at the tail, which then goes on. -/
theorem issueLatchAgrees (h : PlainTick f s t) : issueLatchAgrees t := by
  intro u hu
  obtain ⟨q, hq, rfl⟩ := h.issue_eq_some.1 hu
  have he := h.rob_tail_of_issuing hq
  refine ⟨congrArg RobEntry.hasRd he, congrArg RobEntry.rd he, ?_⟩
  rw [h.csu, csuNext_robTail _ _ h.noFlush, hq]
  rfl

/-- R96 for a register that the issue latch writes: it is marked with that entry, the youngest. -/
theorem producer_of_issue (h : PlainTick f s t) (hi : PipelineInv s) (ha : Machine.issueLatchAgrees s)
    {u : IssueLatch} (hu : s.csu.issue = some u) (hd : u.hasRd = true) (hr : u.rd ≠ 0#5)
    (hy : youngestWriter t u.rd i) : t.rf.isBusy u.rd = true ∧ t.rf.producerOf u.rd = i := by
  rw [h.rf, youngestWriter_unique hy (h.youngestWriter_of_issue hi ha hu hd)]
  exact rfNext_busy_of_issue h.noFlush hu hd hr

/-- R96 for a register nothing is issued to: its youngest writer has not committed, so its mark stays. -/
theorem producer_of_not_issue (h : PlainTick f s t) (hi : PipelineInv s) (ha : Machine.issueLatchAgrees s)
    (hp : ProducerTableOk s) (hr : r ≠ 0#5)
    (hn : ∀ u, s.csu.issue = some u → ¬ (u.hasRd = true ∧ u.rd = r)) (hy : youngestWriter t r i) :
    t.rf.isBusy r = true ∧ t.rf.producerOf r = i := by
  have hys := h.youngestWriter_of_not_issue ha hn hy
  obtain ⟨hbusy, hprod⟩ := (hp h.noFlush r hr).1 i hys
  rw [h.rf, (rfNext_tables_of_not_issue h.noFlush hn).2, rfNext_isBusy_of_not_issue h.noFlush hr hn]
  refine ⟨⟨hbusy, fun k hk ⟨_, _, hpk⟩ => ?_⟩, hprod⟩
  obtain ⟨⟨hocc, -⟩, -⟩ := (Machine.willWrite_iff hi.pointers).1 hys.1
  obtain rfl : i = k.rob := hprod.symm.trans hpk
  exact hocc (hi.commitGone k hk)

/-- R96 for a register with no writer left: the RF cleared its mark in this tick or, its producer committing in this
tick, clears it in the next. -/
theorem mark_of_no_writer (h : PlainTick f s t) (ha : Machine.issueLatchAgrees s) (hp : ProducerTableOk s)
    (hr : r ≠ 0#5) (hn : ∀ u, s.csu.issue = some u → ¬ (u.hasRd = true ∧ u.rd = r))
    (hnone : ∀ j, ¬ willWrite t r j) :
    t.rf.isBusy r = false ∨
      ∃ k, t.csu.commit = some k ∧ k.hasRd = true ∧ k.rd = r ∧ t.rf.producerOf r = k.rob := by
  obtain ⟨youngest, unmarked⟩ := hp h.noFlush r hr
  by_cases hw : ∃ i, willWrite s r i
  · obtain ⟨i, hw⟩ := hw
    obtain ⟨hc, hy⟩ := h.youngestWriter_head_of_none ha hn hw hnone
    obtain ⟨-, -, hd, hreg⟩ := hy.1
    refine .inr ⟨_, h.commit_eq_some.2 ⟨hc, rfl⟩, hd, hreg, ?_⟩
    rw [h.rf, (rfNext_tables_of_not_issue h.noFlush hn).2]
    exact (youngest _ hy).2
  · rw [h.rf, Bool.eq_false_iff, ne_eq, rfNext_isBusy_of_not_issue h.noFlush hr hn]
    refine .inl fun ⟨hbusy, hkeep⟩ => ?_
    obtain hfree | ⟨k, hk, hclear⟩ := unmarked fun i hi => hw ⟨i, hi⟩
    · exact absurd (hbusy.symm.trans hfree) (by simp)
    · exact hkeep k hk hclear

theorem producerTableOk (h : PlainTick f s t) (hi : PipelineInv s) (ha : Machine.issueLatchAgrees s)
    (hp : ProducerTableOk s) : ProducerTableOk t := by
  intro _ r hr
  by_cases hu : ∃ u, s.csu.issue = some u ∧ u.hasRd = true ∧ u.rd = r
  · obtain ⟨u, hu, hd, rfl⟩ := hu
    refine ⟨fun i => h.producer_of_issue hi ha hu hd hr, fun hnone => ?_⟩
    exact absurd (h.youngestWriter_of_issue hi ha hu hd).1 (hnone _)
  · have hn : ∀ u, s.csu.issue = some u → ¬ (u.hasRd = true ∧ u.rd = r) := fun u h1 h2 => hu ⟨u, h1, h2⟩
    exact ⟨fun i => h.producer_of_not_issue hi ha hp hr hn, h.mark_of_no_writer ha hp hr hn⟩

end PlainTick

namespace Drained

variable {s : State}

theorem issueLatchAgrees (h : Drained s) : issueLatchAgrees s := by
  simp [Machine.issueLatchAgrees, h.noIssue]

/-- With nothing in flight there is no writer, and the table is right if no register is marked. -/
theorem producerTableOk (h : Drained s) (hb : ∀ r, s.rf.isBusy r = false) : ProducerTableOk s := by
  refine fun _ r _ => ⟨fun i hi => ?_, fun _ => .inl (hb r)⟩
  obtain ⟨⟨hl, -⟩, -⟩ := hi
  simp [Csu.live, h.robCount] at hl

end Drained

/-- Settles O50: a flush tick leaves no writer and no mark, and a plain tick records the issue latch's entry, the
youngest, or keeps the youngest writer of a register nothing is issued to. -/
theorem producerTableIsKept : Obligations.ProducerTableIsKept := by
  intro s t hi ha hp h
  obtain ⟨hf, f, rfl⟩ | ⟨f, ht⟩ := step_flush_or_plain h
  · have drained := Drained.of_flushTick (f := f) hf
    exact ⟨drained.issueLatchAgrees, drained.producerTableOk (isBusy_of_flush hf)⟩
  · exact ⟨ht.issueLatchAgrees, ht.producerTableOk hi ha hp⟩

end Sys2Proof.Machine
end

section
/-! The pipeline invariant leaves no unit's step a fault of its own (R190, codes 2 to 7): out of a flush tick the one
fault that can be raised is that of an Unknown word (R105). -/

namespace Sys2Proof.Machine

/-- R118: a record is Ready exactly if neither operand waits for a result. -/
theorem slotStateOf_eq_ready {o1 o2 : Operand} :
    slotStateOf o1 o2 = .ready ↔ o1.resolved = true ∧ o2.resolved = true := by
  unfold slotStateOf
  split <;> simp_all

namespace PipelineInv

variable {s : State}

/-- R81, R106: with room in the ROB its tail entry is Empty, so no other part of the step stages it. -/
theorem tailStagedTwice_of_room (hi : PipelineInv s) (hc : s.csu.robCount < robSize) : tailStagedTwice s = false := by
  have he := tail_empty hi.pointers hc
  have alu : aluCompletes s s.csu.robTail = none := aluCompletes_eq_none.2 fun o ho e => by
    have hx := ((hi.aluEntries _).1 (aluOut_mem ho)).1
    rw [e] at hx
    exact absurd (he.symm.trans hx) (by simp)
  have mem : memCompletes s s.csu.robTail = none := memCompletes_eq_none.2 fun o ho e => by
    have hx := ((hi.memEntries _).1 (memOut_mem ho)).1
    rw [e] at hx
    exact absurd (he.symm.trans hx) (by simp)
  have head : (s.csu.commits && s.csu.robHead == s.csu.robTail) = false := by
    simpa using fun h => head_ne_tail hi.pointers ((commits_iff _).1 h).1 hc
  simp only [tailStagedTwice, alu, mem, he, head]
  rfl

/-- R101: with no jalr pending, no result is a jalr's. -/
theorem jalrCompletes_of_noWait (hi : PipelineInv s) (hw : s.csu.jalrWait = false) :
    jalrCompletes s = none := by
  cases ho : s.alu.out with
  | none => simp [jalrCompletes, ho]
  | some o =>
    have hx := ((hi.aluEntries _).1 (aluOut_mem ho)).1
    have hj : (s.csu.rob[o.rob]).cls ≠ .jalr := fun hc =>
      absurd ((hi.jalrStalls _ ⟨hc, .inr hx⟩).symm.trans hw) (by simp)
    simp only [jalrCompletes, ho, if_neg hj]

/-- R81: no cell of the CSU is staged twice. -/
theorem noDoubleWrites (hi : PipelineInv s) (f : Fetched) : csuDoubleWrites Config.core s f = [] := by
  have outs : ∀ a m, s.alu.out = some a → s.mem.out = some m → a.rob ≠ m.rob := fun a m ha hm e =>
    hi.not_mem_both (aluOut_mem ha) (e ▸ memOut_mem hm)
  simp only [csuDoubleWrites, List.append_eq_nil_iff]
  refine ⟨⟨?_, ?_⟩, ?_⟩
  · split
    next a m ha hm => rw [if_neg (outs a m ha hm)]
    all_goals rfl
  · cases hr : issuing Config.core s f with
    | none => rfl
    | some r => simp [hi.tailStagedTwice_of_room (issuing_some hr).2.2.1]
  · cases hr : issuing Config.core s f with
    | none => rfl
    | some r => simp [hi.jalrCompletes_of_noWait ((attempts_iff _).1 (issuing_some hr).2.1).2.2]

/-- R101, R105: the CSU finds each completed entry Executing, and so raises the fault of an Unknown word only. -/
theorem csuFaults_eq (hi : PipelineInv s) (hf : s.csu.flushReq = false) (f : Fetched) :
    csuFaults Config.core f s = illegalFault Config.core s f := by
  have alu (o : AluOut) (ho : s.alu.out = some o) : completionFault s o.rob = [] :=
    if_pos ((hi.aluEntries _).1 (aluOut_mem ho)).1
  have mem (o : MemOut) (ho : s.mem.out = some o) : completionFault s o.rob = [] :=
    if_pos ((hi.memEntries _).1 (memOut_mem ho)).1
  simp only [csuFaults, hi.pointers, hf, if_true, Bool.false_eq_true, if_false, hi.noDoubleWrites, List.nil_append,
    List.append_nil]
  cases ha : s.alu.out <;> cases hm : s.mem.out <;> simp [ha, hm, alu, mem]

/-- R121, R118: the RS has a slot for the record it accepts, and the Ready one it selects holds no tag. -/
theorem rsFaults_eq_nil (hi : PipelineInv s) : rsFaults s = [] := by
  simp only [rsFaults, ite_eq_left_iff, List.append_eq_nil_iff]
  refine fun _ => ⟨?_, ?_⟩
  · split
    next u hu hn =>
      obtain ⟨hu, hrs⟩ := rsAccepting_eq_some.1 hu
      obtain ⟨j, hj⟩ := hi.roomRs u hu hrs
      have := firstIdx_eq_none.1 hn j
      rw [hj] at this
      cases this
    all_goals rfl
  · split
    next j hj =>
      have hready := rsSelect_ready hj
      have := hi.slotState j (by rw [hready]; simp)
      rw [hready, eq_comm, slotStateOf_eq_ready] at this
      exact if_pos (by simpa using this)
    next => rfl

/-- R126, R128: the LSQ has its tail entry free for the record it accepts, and the Ready head holds no tag. -/
theorem lsqFaults_eq_nil (hi : PipelineInv s) : lsqFaults Config.core s = [] := by
  simp only [lsqFaults, ite_eq_left_iff, List.append_eq_nil_iff]
  refine fun _ => ⟨?_, ?_⟩
  · split
    next u hu =>
      have hroom : s.lsq.count ≠ Config.core.lsqSize := (hi.lsqCount_lt (by simp [hu])).ne
      have htail := hi.lsqTail_empty hu
      have hhead : (lsqDispatches s && s.lsq.head == s.lsq.tail) = false := by
        simp only [Bool.and_eq_false_imp, beq_eq_false_iff_ne]
        intro hd e
        have hready := (lsqDispatches_iff.1 hd).2.1
        simp only [e, htail, reduceCtorEq] at hready
      have htwice : lsqTailStagedTwice s = false := by
        simp only [lsqTailStagedTwice, hhead, htail]
        rfl
      simp [hroom, htwice]
    next => rfl
  · split
    next hd =>
      have hready := (lsqDispatches_iff.1 hd).2.1
      have := hi.lsqState s.lsq.head (by rw [hready]; simp)
      rw [hready, eq_comm, slotStateOf_eq_ready] at this
      exact if_pos (by simpa [lsqHead] using this)
    next => rfl

/-- R133: the record given to the ALU is of one of its classes. -/
theorem aluFaults_eq_nil (hi : PipelineInv s) : aluFaults s = [] := by
  simp only [aluFaults, ite_eq_left_iff]
  intro _
  split
  next d hd =>
    have hmem : d.rob ∈ aluHolds s := by simp [aluHolds, hd]
    have hunit := ((hi.aluEntries _).1 hmem).2
    rw [← hi.dispatchClass d hd, ← aluResult_isSome _ d.a d.b d.imm d.shamt d.pc] at hunit
    obtain ⟨r, hr⟩ := Option.isSome_iff_exists.1 hunit
    rw [hr]
  next => rfl

/-- R48 to R52: a request finds Memory Free, what is pending is valid, and no write is for the committing slot. -/
theorem memFaults_eq_nil (hi : PipelineInv s) : memFaults s = [] := by
  simp only [memFaults, ite_eq_left_iff, List.append_eq_nil_iff]
  refine fun hf => ⟨⟨?_, ?_⟩, ?_⟩
  · cases hr : s.lsq.req with
    | none => cases s.mem.state <;> rfl
    | some r =>
      obtain ⟨hfree, hvalid⟩ := hi.reqFree r hr
      simp [hfree, hvalid]
  · split
    next p w hw =>
      have hp := memPerforming_of_writing hw
      have hpending : s.mem.pending = some p := by
        unfold memPerforming at hp
        split at hp
        · cases hp
        · split at hp
          · exact hp
          · cases hp
          · cases hp
      have hx := ((hi.memEntries p.rob).1 (by simp [memHolds, hpending])).1
      refine if_neg fun hc => ?_
      obtain ⟨k, hk, he⟩ := (commitsSlot_iff _ _).1 hc
      rw [← he, hi.commitGone k hk] at hx
      cases hx
    next => rfl
  · cases hs : s.mem.state with
    | free | busy1 => rfl
    | busy2 =>
      cases hp : s.mem.pending with
      | none => exact absurd (hi.memFree.2 hp) (by simp [hs])
      | some p => simp [hi.pendingValid p hp]

/-- R190: with the pipeline invariant, out of a flush tick, a tick raises the fault of an Unknown word or none. -/
theorem tickFaults_eq (hi : PipelineInv s) (hf : s.csu.flushReq = false) (f : Fetched) :
    tickFaults Config.core f s = illegalFault Config.core s f := by
  simp only [tickFaults, hi.csuFaults_eq hf, hi.rsFaults_eq_nil, hi.lsqFaults_eq_nil, hi.aluFaults_eq_nil,
    hi.memFaults_eq_nil, List.append_nil]

/-- R191: an instruction raises no fault. -/
theorem tickFaults_known (hi : PipelineInv s) (r : IssueReq) : tickFaults Config.core (.known r) s = [] := by
  cases hf : s.csu.flushReq with
  | true => exact tickFaults_of_flush hi.pointers hf _
  | false => rw [hi.tickFaults_eq hf]; rfl

/-- R105: behind older entries an Unknown word raises no fault. -/
theorem tickFaults_unknown (hi : PipelineInv s) (hc : s.csu.robCount ≠ 0) (w : Word) :
    tickFaults Config.core (.unknown w) s = [] := by
  cases hf : s.csu.flushReq with
  | true => exact tickFaults_of_flush hi.pointers hf _
  | false =>
    rw [hi.tickFaults_eq hf]
    have hpolicy : (Config.core.illegalPolicy == .immediate) = false := rfl
    simp [illegalFault, hpolicy, hc]

end PipelineInv

end Sys2Proof.Machine
end

section
/-! An Unknown word at the speculated PC (R105): a fault on the architectural path, and a stall behind older entries. -/

namespace Sys2Proof.Machine

/-! ### The fault of an Unknown word is the lowest (R190, R192) -/

/-- R190: only codes 2 to 7 are raised. -/
def InternalOnly (l : List HostFault) : Prop := ∀ k ∈ l, k.isInternal = true

namespace InternalOnly

variable {l l' : List HostFault}

theorem nil : InternalOnly [] := fun _ h => absurd h List.not_mem_nil

theorem singleton {k : HostFault} (h : k.isInternal = true) : InternalOnly [k] := List.forall_mem_singleton.2 h

theorem append (h : InternalOnly l) (h' : InternalOnly l') : InternalOnly (l ++ l') :=
  List.forall_mem_append.2 ⟨h, h'⟩

theorem ite {p : Prop} [Decidable p] (h : InternalOnly l) (h' : InternalOnly l') :
    InternalOnly (if p then l else l') := by
  split
  · exact h
  · exact h'

end InternalOnly

theorem internalOnly_rsFaults (s : State) : InternalOnly (rsFaults s) := by
  refine .ite .nil (.append ?_ ?_)
  · split
    · exact .singleton rfl
    all_goals exact .nil
  · split
    · exact .ite .nil (.singleton rfl)
    · exact .nil

theorem internalOnly_lsqFaults (cfg : Config) (s : State) : InternalOnly (lsqFaults cfg s) := by
  refine .ite .nil (.append ?_ (.ite (.ite .nil (.singleton rfl)) .nil))
  split
  · exact .append (.ite (.singleton rfl) .nil) (.ite (.singleton rfl) .nil)
  · exact .nil

theorem internalOnly_aluFaults (s : State) : InternalOnly (aluFaults s) := by
  refine .ite .nil ?_
  split
  · split
    · exact .nil
    · exact .singleton rfl
  · exact .nil

theorem internalOnly_memFaults (s : State) : InternalOnly (memFaults s) := by
  refine .ite .nil (.append (.append ?_ ?_) ?_)
  · split
    · exact .ite .nil (.singleton rfl)
    · exact .singleton rfl
    · exact .singleton rfl
    all_goals exact .nil
  · split
    · exact .ite (.singleton rfl) .nil
    · exact .nil
  · split
    · exact .ite .nil (.singleton rfl)
    · exact .singleton rfl
    all_goals exact .nil

theorem internalOnly_csuDoubleWrites (cfg : Config) (s : State) (f : Fetched) :
    InternalOnly (csuDoubleWrites cfg s f) := by
  refine .append (.append ?_ (.ite (.singleton rfl) .nil)) (.ite (.singleton rfl) .nil)
  split
  · exact .ite (.singleton rfl) .nil
  all_goals exact .nil

theorem internalOnly_completionFault (s : State) (i : RobIdx) : InternalOnly (completionFault s i) :=
  .ite .nil (.singleton rfl)

/-- R190: the fault of code 1 is raised by an Unknown word at an issue attempt, and by nothing else. -/
theorem mem_csuFaults_cases {cfg : Config} {f : Fetched} {s : State} {k : HostFault} (h : k ∈ csuFaults cfg f s) :
    k ∈ illegalFault cfg s f ∨ k.isInternal = true := by
  obtain h | h := List.mem_append.1 h
  · exact .inr ((InternalOnly.nil.ite (.singleton rfl)) k h)
  · split at h
    · cases h
    · simp only [List.mem_append, or_assoc] at h
      refine h.imp_right ?_
      rintro (h | h | h)
      · split at h
        · exact internalOnly_completionFault _ _ k h
        · cases h
      · split at h
        · exact internalOnly_completionFault _ _ k h
        · cases h
      · exact internalOnly_csuDoubleWrites _ _ _ k h

theorem mem_tickFaults_cases {cfg : Config} {f : Fetched} {s : State} {k : HostFault} (h : k ∈ tickFaults cfg f s) :
    k ∈ illegalFault cfg s f ∨ k.isInternal = true := by
  simp only [tickFaults, List.mem_append] at h
  obtain (((h | h) | h) | h) | h := h
  · exact mem_csuFaults_cases h
  · exact .inr (internalOnly_rsFaults s k h)
  · exact .inr (internalOnly_lsqFaults cfg s k h)
  · exact .inr (internalOnly_aluFaults s k h)
  · exact .inr (internalOnly_memFaults s k h)

/-- R105, R192: a tick that finds an Unknown word illegal is that fault, whatever else it raises. -/
theorem tick_of_illegal {cfg : Config} {s : State} {w : Word} (hr : refusedFetch (.unknown w) s = none)
    (hf : s.csu.flushReq = false) (ha : s.csu.attempts = true)
    (hp : cfg.illegalPolicy = .immediate ∨ s.csu.robCount = 0) :
    tick cfg (.unknown w) s = .fault (.host (.illegalInstruction s.csu.specPc w)) := by
  have hi : illegalFault cfg s (.unknown w) = [.illegalInstruction s.csu.specPc w] := by
    simp [illegalFault, ha, hp]
  have hmem : .illegalInstruction s.csu.specPc w ∈ tickFaults cfg (.unknown w) s := by
    simp [tickFaults, csuFaults, hf, hi]
  refine tick_fault_iff.2 ⟨hr, ?_⟩
  cases hl : lowestFault (tickFaults cfg (.unknown w) s) with
  | none => rw [lowestFault_eq_none.1 hl] at hmem; cases hmem
  | some k =>
    refine ⟨k, rfl, ?_⟩
    obtain hk | hk := mem_tickFaults_cases (lowestFault_mem hl)
    · rw [hi, List.mem_singleton] at hk
      rw [hk]
    · have hle : k.code ≤ 1 := lowestFault_le hl _ hmem
      have hge : 2 ≤ k.code := of_decide_eq_true hk
      omega

/-- Settles O3: no fault has a lower code than that of the Unknown word. -/
theorem unknownWordFaultsOnceRobIsEmpty : Obligations.UnknownWordFaultsOnceRobIsEmpty := by
  intro s e hr hd hf hn hw
  have ha : s.csu.attempts = true := (attempts_iff _).2 ⟨hf, hn, hw⟩
  refine ⟨fun h0 hs => ?deferred, fun href => ?immediate⟩
  case deferred =>
    have href : refusedFetch (.unknown (fetchWord s)) s = none := by
      simp [refusedFetch, hf, (attempts_of_robEmpty h0).1, hs]
    rw [step_unknown hr hd]
    exact tick_of_illegal href hf ha (.inr h0)
  case immediate =>
    rw [stepWith_of_full le_rfl le_rfl hr,
      fetched_unknown (cfg := { Config.core with illegalPolicy := .immediate }) (e := e) hd]
    exact tick_of_illegal href hf ha (.inl rfl)

/-- R103: the speculated PC waits when nothing is issued and no jalr completes. -/
theorem csuNext_specPc_of_stall {s : State} {f : Fetched} (hf : s.csu.flushReq = false)
    (hn : issuing Config.core s f = none) (hj : jalrCompletes s = none) :
    (csuNext Config.core f s).specPc = s.csu.specPc := by
  rw [csuNext_specPc _ _ hf, specPcNext, hj, hn]

/-- R61: with the ROB not empty an unknown word is refused for the committing head only. -/
theorem refusedFetch_unknown_eq_none {s : State} (w : Word) (hc : s.csu.robCount ≠ 0)
    (h : s.csu.commits = true → fetchesStored s s.csu.headEntry.pc = false) : refusedFetch (.unknown w) s = none := by
  rw [Option.eq_none_iff_forall_ne_some]
  intro pc hr
  obtain ⟨-, ⟨hcommits, hstored, -⟩ | ⟨-, h0, -⟩⟩ := refusedFetch_unknown_eq_some.1 hr
  · exact absurd (hstored.symm.trans (h hcommits)) (by simp)
  · exact hc h0

/-- Settles O4: the ROB not being empty, the attempt only stalls (R105). -/
theorem unknownWordStallsBehindOlderEntries : Obligations.UnknownWordStallsBehindOlderEntries := by
  intro s e hr hd hi hc hs
  have href := refusedFetch_unknown_eq_none (fetchWord s) hc.ne' hs
  refine ⟨_, (step_unknown hr hd).trans (tick_next_iff.2 ⟨href, hi.tickFaults_unknown hc.ne' _, rfl⟩),
    csuNext_issue_unknown _ _ _, fun hf => ⟨csuNext_robTail _ _ hf, fun hw => ?_⟩⟩
  exact csuNext_specPc_of_stall hf (issuing_unknown _ _ _) (hi.jalrCompletes_of_noWait hw)

end Sys2Proof.Machine
end

section
/-! The CSU's part of a tick (R97 to R110), as a next state of `exec` shows it: what is issued and when, how a register
operand is resolved, what commits, and what a broadcast completes. -/

namespace Sys2Proof.Machine

/-! ### What decode hands the issue logic (R69, R71, R107) -/

section IssueRecord

variable (i : Instr)

@[simp] theorem issueReqOf_cls : (issueReqOf i).cls = i.cls := by
  cases i <;> rfl

@[simp] theorem issueReqOf_unit : (issueReqOf i).unit = i.cls.unit := by
  rw [IssueReq.unit, issueReqOf_cls]

theorem issueReqOf_src1 : (issueReqOf i).src1 = (operandsOf i).rs1 := by
  cases i <;> rfl

theorem issueReqOf_src2 : (issueReqOf i).src2 = (operandsOf i).rs2 := by
  cases i <;> rfl

theorem issueReqOf_writesRd : (issueReqOf i).writesRd = (operandsOf i).rd.isSome := by
  cases i <;> rfl

variable {i}

theorem issueReqOf_rd {rd : RegIdx} (h : (operandsOf i).rd = some rd) : (issueReqOf i).rd = rd := by
  cases i <;> cases h <;> rfl

theorem issueReqOf_imm {v : Word} (h : (operandsOf i).imm = some v) : (issueReqOf i).imm = v := by
  cases i <;> cases h <;> rfl

theorem issueReqOf_shamt {n : BitVec 5} (h : (operandsOf i).shamt = some n) : (issueReqOf i).shamt = n := by
  cases i <;> cases h <;> rfl

/-- R71: has_rd, of the instruction's own destination. -/
theorem issueReqOf_hasRd_iff : (issueReqOf i).hasRd = true ↔ ∃ rd, (operandsOf i).rd = some rd ∧ rd ≠ 0#5 := by
  rw [IssueReq.hasRd, issueReqOf_writesRd, Bool.and_eq_true, bne_iff_ne, Option.isSome_iff_exists]
  constructor
  · rintro ⟨⟨rd, h⟩, hne⟩
    exact ⟨rd, h, issueReqOf_rd h ▸ hne⟩
  · rintro ⟨rd, h, hne⟩
    exact ⟨⟨rd, h⟩, (issueReqOf_rd h).symm ▸ hne⟩

/-- R71, R110: rd and shamt are bits of the word in every class. -/
theorem issueReqOf_fields (h : i ≠ .halt) :
    (issueReqOf i).rd = Field.rd (encode i) ∧ (issueReqOf i).shamt = Field.shamt (encode i) := by
  cases i with
  | halt => exact absurd rfl h
  | lui | auipc => exact ⟨(rd_encodeU ..).symm, rfl⟩
  | jal => exact ⟨(rd_encodeJ ..).symm, rfl⟩
  | jalr | lb | lh | lw | lbu | lhu | addi | slti | sltiu | xori | ori | andi => exact ⟨(rd_encodeI ..).symm, rfl⟩
  | slli | srli | srai => exact ⟨(rd_encodeR ..).symm, (shamt_encodeR ..).symm⟩
  | add | sub | sll | slt | sltu | xor | srl | sra | or | and => exact ⟨(rd_encodeR ..).symm, rfl⟩
  | beq | bne | blt | bge | bltu | bgeu | sb | sh | sw => exact ⟨rfl, rfl⟩

/-- R107: the guess, at BRANCH_PREDICT = Taken. -/
theorem specNextOf_guess (i : Instr) (pc : Addr) :
    specNextOf Config.core pc (issueReqOf i).guess = guessedNext i pc := by
  cases i <;> rfl

theorem issueReqOf_guess_eq_wait_iff : (issueReqOf i).guess = .wait ↔ i.cls = .jalr := by
  cases i with
  | jalr => exact iff_of_true rfl rfl
  | _ => exact iff_of_false nofun nofun

end IssueRecord

/-! ### Issue (R103 to R110) -/

/-- R103, R106: where the conditions hold, the instruction at the speculated PC is issued. -/
theorem CanIssue.issuing {i : Instr} {s : State} (h : CanIssue s i.cls.unit) :
    issuing Config.core s (.known (issueReqOf i)) = some (issueReqOf i) := by
  have ha : s.csu.attempts = true := (attempts_iff _).2 ⟨h.noFlush, h.noFlushNow, h.noWait⟩
  rw [issuing_known, issueReqOf_unit, if_pos ⟨ha, h.room⟩]

/-- R61: an instruction is refused for the committing head only. -/
theorem refusedFetch_known_eq_none {s : State} (r : IssueReq)
    (h : s.csu.commits = true → fetchesStored s s.csu.headEntry.pc = false) : refusedFetch (.known r) s = none := by
  rw [Option.eq_none_iff_forall_ne_some]
  intro pc hr
  obtain ⟨-, hc, hs, -⟩ := refusedFetch_known_eq_some.1 hr
  exact absurd (hs.symm.trans (h hc)) (by simp)

/-- With the pipeline invariant an instruction that R61 does not refuse has a next state (R191). -/
theorem PipelineInv.exec_next {s : State} (hi : PipelineInv s) {i : Instr}
    (hr : refusedFetch (.known (issueReqOf i)) s = none) :
    exec i s = .next (afterSync Config.core (unitsNext Config.core (.known (issueReqOf i)) s)) :=
  exec_next_iff.2 ⟨hr, hi.tickFaults_known _, rfl⟩

namespace PlainTick

variable {f : Fetched} {s t : State} {r : IssueReq}

theorem robTail (h : PlainTick f s t) :
    t.csu.robTail = if (issuing Config.core s f).isSome then s.csu.robTail + 1 else s.csu.robTail := by
  rw [h.csu, csuNext_robTail _ _ h.noFlush]

theorem specPc (h : PlainTick f s t) : t.csu.specPc = specPcNext Config.core s f := by
  rw [h.csu, csuNext_specPc _ _ h.noFlush]

theorem jalrWait (h : PlainTick f s t) : t.csu.jalrWait = jalrWaitNext Config.core s f := by
  rw [h.csu, csuNext_jalrWait _ _ h.noFlush]

/-- R107, R112: where the fetch PC goes on, and whether issue waits, after an instruction is issued. -/
theorem fetch_of_issuing (h : PlainTick f s t) (hr : issuing Config.core s f = some r) :
    t.csu.specPc = (if r.guess = .wait then s.csu.specPc else specNextOf Config.core s.csu.specPc r.guess) ∧
      t.csu.jalrWait = decide (r.guess = .wait) := by
  have hj := noFault_jalr h.noFault h.noFlush hr
  have hw := ((attempts_iff _).1 (issuing_some hr).2.1).2.2
  rw [h.specPc, h.jalrWait, specPcNext, jalrWaitNext, hj, hr, hw]
  refine ⟨rfl, ?_⟩
  by_cases hg : r.guess = .wait <;> simp [hg]

end PlainTick

/-- Settles O24: the instruction is issued, and its record names its own operands. -/
theorem issueAllocatesAndBroadcasts : Obligations.IssueAllocatesAndBroadcasts := by
  intro i s hc
  have hr := hc.issuing
  have hexec := hc.inv.exec_next (refusedFetch_known_eq_none (issueReqOf i) hc.admitted)
  have ht := exec_plainTick hexec hc.noFlush
  have hrob := ht.rob_tail_of_issuing hr
  have hguess := specNextOf_guess i s.csu.specPc
  obtain ⟨hpc, hwait⟩ := ht.fetch_of_issuing hr
  simp only [issueReqOf_guess_eq_wait_iff, hguess] at hpc hwait
  refine ⟨_, _, hexec, ht.issue_eq_some.2 ⟨_, hr, rfl⟩, ?names, ?operands, ?entry, ?tail, hwait, hpc⟩
  case names => exact ⟨issueReqOf_unit i, issueReqOf_cls i, rfl, hguess, rfl⟩
  case operands =>
    have src1 := issueReqOf_src1 i
    have src2 := issueReqOf_src2 i
    refine ⟨issueReqOf_hasRd_iff, fun _ => issueReqOf_rd, fun h => ?_, fun r h => ?_, fun h => ?_, fun r h => ?_,
      fun _ => issueReqOf_imm, fun _ => issueReqOf_shamt, issueReqOf_fields⟩
    all_goals simp only [issueLatchOf, src1, src2, h, resolveSrc]
  case entry =>
    rw [hrob, allocated, issueReqOf_word, issueReqOf_cls, issueReqOf_unit, hguess]
    rfl
  case tail => rw [ht.robTail, hr]; rfl

/-! ### Stalls (R99, R103, R106, R112) -/

theorem countP_slots (rs : ResStation) :
    rsFree rs = (List.finRange rsSize).countP fun j => decide ((rs.slot[j]).state = .empty) := by
  rw [rsFree, toList_eq_map_finRange, List.countP_map]
  rfl

/-- Settles O25: the conditions of an issue are tested on the numbers at the start of the tick. -/
theorem issueStallsWithoutCapacity : Obligations.IssueStallsWithoutCapacity := by
  intro i s hf
  refine ⟨fun t h => ?issues, fun hi href => ⟨_, hi.exec_next href⟩⟩
  have ht := exec_plainTick h hf
  refine ⟨?_, fun hn => ?_⟩
  · rw [ht.issue, ne_eq, Option.map_eq_none_iff, issuing_known, issueReqOf_unit, ite_eq_right_iff]
    simp only [reduceCtorEq, imp_false, not_not, canIssue, Bool.and_eq_true, decide_eq_true_eq]
    rw [Nat.add_comm]
    cases i.cls.unit with
    | rs => rw [unitFree, countP_slots]; rfl
    | lsq => rfl
  · rw [ht.issue, Option.map_eq_none_iff] at hn
    refine ⟨by rw [ht.robTail, hn]; rfl, fun hi hw => ?_⟩
    rw [ht.csu, csuNext_specPc_of_stall hf hn (hi.jalrCompletes_of_noWait hw)]

/-- R103: without an attempt nothing is issued. -/
theorem issuing_of_not_attempts {cfg : Config} {s : State} (h : s.csu.attempts = false) (f : Fetched) :
    issuing cfg s f = none := by
  rw [Option.eq_none_iff_forall_ne_some]
  intro r hr
  exact absurd (h.symm.trans (issuing_some hr).2.1) (by simp)

/-- R101: a result that resolves a jalr. -/
theorem jalrCompletes_of_jalr {s : State} {o : AluOut} (ho : s.alu.out = some o)
    (hc : (s.csu.rob[o.rob]).cls = .jalr) : jalrCompletes s = some o.nextPc := by
  simp only [jalrCompletes, ho, if_pos hc]

theorem jalrCompletes_of_not_jalr {s : State} (h : ∀ o, s.alu.out = some o → (s.csu.rob[o.rob]).cls ≠ .jalr) :
    jalrCompletes s = none := by
  cases ho : s.alu.out with
  | none => simp only [jalrCompletes, ho]
  | some o => simp only [jalrCompletes, ho, if_neg (h o ho)]

/-- Settles O26: an attempt is made only with no flush raised or pending and no jalr pending. -/
theorem noIssueWhileFlushingOrWaitingForJalr : Obligations.NoIssueWhileFlushingOrWaitingForJalr := by
  intro i s t h
  refine ⟨fun hn => ?noIssue, fun hf hw => ?waits⟩
  case noIssue =>
    cases hf : s.csu.flushReq with
    | true =>
      obtain ⟨-, -, rfl⟩ := exec_next_iff.1 h
      rw [csu_of_flushTick hf, csuFlushed_issue]
    | false =>
      have ha : s.csu.attempts = false := by
        rw [Bool.eq_false_iff, ne_eq, attempts_iff]
        rintro ⟨hf', hn', hw'⟩
        simp [hf', hn', hw'] at hn
      rw [(exec_plainTick h hf).issue, issuing_of_not_attempts ha, Option.map_none]
  case waits =>
    have ht := exec_plainTick h hf
    have hn := issuing_of_not_attempts (cfg := Config.core) (s := s) (by simp [Csu.attempts, hw]) (.known (issueReqOf i))
    rw [ht.specPc, ht.jalrWait, specPcNext, jalrWaitNext, hn]
    refine ⟨fun ho => ?_, fun o ho hc => ?_⟩
    · rw [jalrCompletes_of_not_jalr ho]
      exact ⟨hw, rfl⟩
    · rw [jalrCompletes_of_jalr ho hc]
      exact ⟨rfl, rfl⟩

/-! ### Operands (R109) -/

section Resolve

variable {s : State} {r : RegIdx} {q : RobIdx}

/-- R109 case 2. -/
theorem resolveReg_of_issue {u : IssueLatch} (hr : r ≠ 0#5) (hu : s.csu.issue = some u) (hd : u.hasRd = true)
    (he : u.rd = r) : resolveReg s r = .tag u.rob := by
  simp [resolveReg, hr, hu, hd, he]

theorem resolveReg_of_not_issue (hr : r ≠ 0#5)
    (hn : ∀ u, s.csu.issue = some u → ¬ (u.hasRd = true ∧ u.rd = r)) : resolveReg s r = resolveFromRf s r := by
  rw [resolveReg, if_neg hr]
  split
  next u hu => exact if_neg (by simpa using hn u hu)
  next => rfl

/-- R109 case 3, the commit latch first. -/
theorem resolveBusy_of_commit {k : CommitLatch} (hk : s.csu.commit = some k) (hq : k.rob = q) (hd : k.hasRd = true)
    (he : k.rd = r) : resolveBusy s r q = .val k.value := by
  simp [resolveBusy, hk, hq, hd, he]

theorem resolveBusy_of_not_commit
    (hn : ∀ k, s.csu.commit = some k → ¬ (k.rob = q ∧ k.hasRd = true ∧ k.rd = r)) :
    resolveBusy s r q = resolveBusy.fromRob s q := by
  rw [resolveBusy]
  split
  next k hk => exact if_neg (by simpa [and_assoc] using hn k hk)
  next => rfl

theorem aluBroadcast_eq_some {v : Word} :
    aluBroadcast s.alu.out q = some v ↔ ∃ o, s.alu.out = some o ∧ o.rob = q ∧ o.value = v := by
  unfold aluBroadcast
  split
  next o ho => simp [ho]
  next ho => simp [ho]

theorem memBroadcast_eq_some {v : Word} :
    memBroadcast s.mem.out q = some v ↔ ∃ o, s.mem.out = some o ∧ o.rob = q ∧ o.value = v := by
  unfold memBroadcast
  split
  next o ho => simp [ho]
  next ho => simp [ho]

theorem aluBroadcast_eq_none (h : ∀ o, s.alu.out = some o → o.rob ≠ q) : aluBroadcast s.alu.out q = none := by
  rw [Option.eq_none_iff_forall_ne_some]
  rintro v hv
  obtain ⟨o, ho, he, -⟩ := aluBroadcast_eq_some.1 hv
  exact h o ho he

theorem memBroadcast_eq_none (h : ∀ o, s.mem.out = some o → o.rob ≠ q) : memBroadcast s.mem.out q = none := by
  rw [Option.eq_none_iff_forall_ne_some]
  rintro v hv
  obtain ⟨o, ho, he, -⟩ := memBroadcast_eq_some.1 hv
  exact h o ho he

end Resolve

/-- Settles O27, one case of R109 after the other. -/
theorem operandsAreResolvedAtIssue : Obligations.OperandsAreResolvedAtIssue := by
  intro s r
  refine ⟨if_pos rfl, fun hr => ⟨fun u hu hd he => resolveReg_of_issue hr hu hd he, fun hn => ?_⟩⟩
  rw [resolveReg_of_not_issue hr hn]
  refine ⟨fun hb => by simp [resolveFromRf, hb], fun hb => ?_⟩
  have hbusy : resolveFromRf s r = resolveBusy s r (s.rf.producerOf r) := by simp [resolveFromRf, hb]
  rw [hbusy]
  refine ⟨fun k hk hq hd he => resolveBusy_of_commit hk hq hd he, fun hc => ?_⟩
  rw [resolveBusy_of_not_commit hc]
  refine ⟨fun hready => if_pos hready, fun hready => ?_⟩
  have hrob : resolveBusy.fromRob s (s.rf.producerOf r) =
      match s.broadcast (s.rf.producerOf r) with
      | some v => .val v
      | none => .tag (s.rf.producerOf r) := if_neg hready
  rw [hrob, State.broadcast]
  refine ⟨fun o ho he => ?alu, fun ha => ⟨fun o ho he => ?mem, fun hm => ?tag⟩⟩
  case alu => rw [aluBroadcast_eq_some.2 ⟨o, ho, he, rfl⟩]
  case mem => rw [aluBroadcast_eq_none ha, memBroadcast_eq_some.2 ⟨o, ho, he, rfl⟩]
  case tag => rw [aluBroadcast_eq_none ha, memBroadcast_eq_none hm]

/-! ### Commit (R99, R100) -/

namespace PlainTick

variable {f : Fetched} {s t : State}

theorem archPc (h : PlainTick f s t) :
    t.csu.archPc = if s.csu.commits then s.csu.headEntry.resolvedPc else s.csu.archPc := by
  rw [h.csu, csuNext_archPc _ _ h.noFlush]

theorem robHead (h : PlainTick f s t) :
    t.csu.robHead = if s.csu.commits then s.csu.robHead + 1 else s.csu.robHead := by
  rw [h.csu, csuNext_robHead _ _ h.noFlush]

theorem flushReq (h : PlainTick f s t) : t.csu.flushReq = s.csu.flushNow := by
  rw [h.csu, csuNext_flushReq _ _ h.noFlush]

/-- R99: the committing head's entry is Empty after the tick. -/
theorem rob_head_of_commits (h : PlainTick f s t) (hc : s.csu.commits = true) :
    t.csu.rob[s.csu.robHead] = RobEntry.empty := by
  have hm := h.rob s.csu.robHead
  generalize t.csu.rob[s.csu.robHead] = e at hm
  have hready := ((commits_iff _).1 hc).2
  cases hm with
  | commit => rfl
  | aluDone _ _ _ he | memDone _ _ _ he | issue _ _ _ he | start he =>
    exact absurd (hready.symm.trans he) (by simp)
  | keep _ hn => exact absurd rfl (hn hc)

/-- R113: a ReadyToCommit entry that is not the head waits. -/
theorem rob_of_ready (h : PlainTick f s t) {i : RobIdx} (hi : (s.csu.rob[i]).state = .readyToCommit)
    (hn : i ≠ s.csu.robHead) : t.csu.rob[i] = s.csu.rob[i] := by
  have hm := h.rob i
  generalize t.csu.rob[i] = e at hm
  cases hm with
  | commit _ he => exact absurd he hn
  | aluDone _ _ _ he | memDone _ _ _ he | issue _ _ _ he | start he => exact absurd (hi.symm.trans he) (by simp)
  | keep => rfl

end PlainTick

/-- Settles O28: commit is of the head, and of nothing else. -/
theorem onlyTheHeadCommits : Obligations.OnlyTheHeadCommits := by
  intro i s t h hf
  have ht := exec_plainTick h hf
  rw [← commits_iff, ht.commit, ht.archPc, ht.robHead, ht.flushReq, Csu.flushNow]
  refine ⟨fun hc => ?commits, fun hc => ?waits, fun j hj hready => ht.rob_of_ready hready hj⟩
  case commits =>
    rw [ht.rob_head_of_commits hc, hc]
    exact ⟨rfl, rfl, RobEntry.empty_isCleared, rfl, rfl⟩
  case waits =>
    rw [Bool.not_eq_true] at hc
    rw [hc]
    exact ⟨rfl, rfl, rfl, rfl⟩

/-- R100: a0 is taken from the commit latch if that writes x10. -/
theorem currentA0_cases (s : State) :
    (∃ k, s.csu.commit = some k ∧ k.hasRd = true ∧ k.rd = 10#5 ∧ currentA0 s = k.value) ∨
      ((∀ k, s.csu.commit = some k → ¬ (k.hasRd = true ∧ k.rd = 10#5)) ∧ currentA0 s = s.rf.read 10#5) := by
  unfold currentA0
  cases hk : s.csu.commit with
  | none => exact .inr ⟨by simp, rfl⟩
  | some k =>
    by_cases hd : k.hasRd = true ∧ k.rd = 10#5
    · exact .inl ⟨k, rfl, hd.1, hd.2, by simp [hd]⟩
    · exact .inr ⟨by simpa using hd, if_neg (by simpa using hd)⟩

/-- R21, R87: the halt signal carries the marker and the low byte of a0. -/
theorem haltLatch_core (s : State) :
    haltLatch Config.core s = 0x100#32 ||| ((currentA0 s).setWidth 8).setWidth 32 := rfl

theorem haltSignal_marked (b : BitVec 8) : (0x100#32 ||| b.setWidth 32).getLsbD 8 = true := by
  simp

theorem haltSignal_code (b : BitVec 8) : (0x100#32 ||| b.setWidth 32).setWidth 8 = b := by
  ext i hi
  interval_cases i <;> simp

/-- Settles O29: out of a flush tick only a committing halt stages the halt signal. -/
theorem haltLatchesTheLowByteOfA0 : Obligations.HaltLatchesTheLowByteOfA0 := by
  intro i s t h
  obtain ⟨-, -, rfl⟩ := exec_next_iff.1 h
  refine ⟨fun ⟨hf, hc, hcls⟩ => ?halts, fun hn => ?other⟩
  case halts =>
    have hsignal : (csuNext Config.core (.known (issueReqOf i)) s).haltSignal =
        0x100#32 ||| ((currentA0 s).setWidth 8).setWidth 32 := by
      rw [csuNext_haltSignal _ _ hf, if_pos (by simp [hc, hcls]), haltLatch_core]
    refine ⟨currentA0 s, currentA0_cases s, hsignal, ?_⟩
    rw [afterSync_status, unitsNext_csu, statusAfter_of_marked, hsignal, haltSignal_code]
    rw [haltMarked, hsignal]
    exact haltSignal_marked _
  case other =>
    rw [afterSync_csu, unitsNext_csu]
    cases hf : s.csu.flushReq with
    | true => rw [csuNext_of_flush _ _ hf, csuFlushed_haltSignal]
    | false =>
      rw [csuNext_haltSignal _ _ hf, if_neg]
      simpa [hf] using hn

/-! ### Completion (R101, R102) -/

namespace PlainTick

variable {f : Fetched} {s t : State}

/-- R101: the entry that the ALU's result names. -/
theorem rob_of_aluOut (h : PlainTick f s t) {o : AluOut} (ho : s.alu.out = some o) :
    t.csu.rob[o.rob] = completedByAlu s.csu.rob[o.rob] o := by
  have hx := noFault_aluOut h.noFault h.noFlush ho
  have hm := h.rob o.rob
  generalize t.csu.rob[o.rob] = e at hm
  cases hm with
  | commit _ _ he | issue _ _ _ he | start he => exact absurd (hx.symm.trans he) (by simp)
  | aluDone o' ho' => rw [Option.some.inj (ho.symm.trans ho')]
  | memDone m hm hi => exact absurd hi.symm (noFault_outs_differ h.noFault h.noFlush ho hm)
  | keep _ _ ha => exact absurd rfl (ha o ho)

/-- R101: the entry that Memory's result names. -/
theorem rob_of_memOut (h : PlainTick f s t) {o : MemOut} (ho : s.mem.out = some o) :
    t.csu.rob[o.rob] = completedByMem s.csu.rob[o.rob] o := by
  have hx := noFault_memOut h.noFault h.noFlush ho
  have hm := h.rob o.rob
  generalize t.csu.rob[o.rob] = e at hm
  cases hm with
  | commit _ _ he | issue _ _ _ he | start he => exact absurd (hx.symm.trans he) (by simp)
  | aluDone a ha hi => exact absurd hi (noFault_outs_differ h.noFault h.noFlush ha ho)
  | memDone o' ho' => rw [Option.some.inj (ho.symm.trans ho')]
  | keep _ _ _ hm => exact absurd rfl (hm o ho)

/-- R102: an Issued entry is Executing after the tick. -/
theorem rob_of_issued (h : PlainTick f s t) {i : RobIdx} (hi : (s.csu.rob[i]).state = .issued) :
    t.csu.rob[i] = { s.csu.rob[i] with state := .executing } := by
  have hm := h.rob i
  generalize t.csu.rob[i] = e at hm
  cases hm with
  | commit _ _ he | aluDone _ _ _ he | memDone _ _ _ he | issue _ _ _ he => exact absurd (hi.symm.trans he) (by simp)
  | start => rfl
  | keep he => exact absurd hi he

end PlainTick

/-- Settles O30, one kind of entry after the other. -/
theorem broadcastsCompleteTheirEntry : Obligations.BroadcastsCompleteTheirEntry := by
  intro i s t h hf
  have ht := exec_plainTick h hf
  refine ⟨fun o ho => ⟨noFault_aluOut ht.noFault hf ho, ?_⟩,
    fun o ho => ⟨noFault_memOut ht.noFault hf ho, ht.rob_of_memOut ho⟩, fun j hj => ht.rob_of_issued hj⟩
  rw [ht.rob_of_aluOut ho, completedByAlu]
  congr 1
  rw [Bool.eq_iff_iff]
  simp

end Sys2Proof.Machine
end

section
/-! The sequential reading of one instruction (R116) in the terms of the machine: the result its unit computes (R133, R52),
and what it does to the registers and to memory. -/

namespace Sys2Proof.Machine

/-! ### One instruction's result and effect -/

/-- The value of a register operand, 0 for one the class does not use. -/
def ArchState.src (a : ArchState) : Option RegIdx → Word
  | some r => a.x r
  | none => 0#32

/-- R171: the address a load or store reaches. -/
def accessAddr (i : Instr) (a : ArchState) : Addr :=
  effectiveAddr (a.src (issueReqOf i).src1) (issueReqOf i).imm

/-- R52, R133: the value and the next PC of an instruction, as Memory or the ALU computes them. -/
def resultOf (i : Instr) (a : ArchState) : AluResult :=
  match accessWidth i.cls with
  | some w =>
    { value := if isStore i.cls then 0#32 else a.mem.load w (loadsSigned i.cls) (accessAddr i a)
      nextPc := a.pc + 4#32 }
  | none =>
    (aluResult i.cls (a.src (issueReqOf i).src1) (a.src (issueReqOf i).src2) (issueReqOf i).imm (issueReqOf i).shamt
      a.pc).getD ⟨0#32, a.pc⟩

/-- R71: the registers after an instruction. -/
def regsAfter (i : Instr) (a : ArchState) : Vector Word nRegs :=
  if (issueReqOf i).hasRd then setReg a.regs (issueReqOf i).rd (resultOf i a).value else a.regs

/-- R44, R127: the width an instruction stores, if it is a store. -/
def storeWidth (i : Instr) : Option Width := if isStore i.cls then accessWidth i.cls else none

/-- R179 to R181: memory after an instruction. -/
def memAfter (i : Instr) (a : ArchState) : Memory :=
  match storeWidth i with
  | some w => a.mem.store w (accessAddr i a) (a.src (issueReqOf i).src2)
  | none => a.mem

/-- The state after an instruction. -/
def effectOf (i : Instr) (a : ArchState) : ArchState :=
  { regs := regsAfter i a, pc := (resultOf i a).nextPc, mem := memAfter i a }

/-- R95: a write to register 0 is discarded, so has_rd adds nothing to the class's having a destination. -/
theorem regsAfter_of_writesRd {i : Instr} (h : (issueReqOf i).writesRd = true) (a : ArchState) :
    regsAfter i a = setReg a.regs (issueReqOf i).rd (resultOf i a).value := by
  rw [regsAfter, IssueReq.hasRd, h]
  by_cases hr : (issueReqOf i).rd = 0#5 <;> simp [hr]

/-- R116: the architectural effect of every instruction but the halt. -/
theorem archExec_eq_effectOf {i : Instr} (h : i ≠ .halt) (a : ArchState) : archExec i a = .next (effectOf i a) := by
  cases i with
  | halt => exact absurd rfl h
  | beq | bne | blt | bge | bltu | bgeu => rfl
  | sb | sh | sw => rfl
  | lui | auipc | jal | jalr | lb | lh | lw | lbu | lhu | addi | slti | sltiu | xori | ori | andi | slli | srli | srai
  | add | sub | sll | slt | sltu | xor | srl | sra | or | and =>
    rw [effectOf, regsAfter_of_writesRd rfl]
    rfl

/-- R182: the halt leaves registers and memory. -/
theorem effectOf_halt (a : ArchState) : effectOf .halt a = { a with pc := a.pc + 4#32 } := rfl

/-! ### What is read after one instruction -/

/-- R10: the registers after an instruction. -/
theorem x_effectOf (i : Instr) (a : ArchState) (r : RegIdx) :
    (effectOf i a).x r =
      if (issueReqOf i).hasRd = true ∧ (issueReqOf i).rd = r then (resultOf i a).value else a.x r := by
  unfold ArchState.x
  by_cases hr : r = 0#5
  · rw [if_pos hr, if_pos hr, if_neg]
    rintro ⟨hd, he⟩
    exact IssueReq.rd_ne_zero hd (he.trans hr)
  · rw [if_neg hr, if_neg hr]
    simp only [effectOf, regsAfter]
    split
    next hd =>
      rw [setReg_get]
      simp only [hd, true_and, IssueReq.rd_ne_zero hd, ne_eq, not_false_eq_true, and_true, eq_comm]
    next hd => simp [hd]

theorem memAfter_of_storeWidth {i : Instr} {w : Width} (h : storeWidth i = some w) (a : ArchState) :
    memAfter i a = a.mem.store w (accessAddr i a) (a.src (issueReqOf i).src2) := by
  simp [memAfter, h]

theorem memAfter_of_not_store {i : Instr} (h : storeWidth i = none) (a : ArchState) : memAfter i a = a.mem := by
  simp [memAfter, h]

theorem storeWidth_eq_some {i : Instr} {w : Width} :
    storeWidth i = some w ↔ isStore i.cls = true ∧ accessWidth i.cls = some w := by
  simp [storeWidth]

/-- R104: the LSQ is given what accesses memory, and the RS what the ALU computes. -/
theorem accessWidth_eq_none {c : OpClass} (h : c.unit = .rs) : accessWidth c = none := by
  rw [← Option.not_isSome_iff_eq_none, accessWidth_isSome, h]
  simp

theorem storeWidth_of_rs {i : Instr} (h : i.cls.unit = .rs) : storeWidth i = none := by
  simp [storeWidth, accessWidth_eq_none h]

/-- R133: an ALU-class result is the ALU's. -/
theorem resultOf_of_rs {i : Instr} {a : ArchState} {r : AluResult}
    (h : aluResult i.cls (a.src (issueReqOf i).src1) (a.src (issueReqOf i).src2) (issueReqOf i).imm
      (issueReqOf i).shamt a.pc = some r) : resultOf i a = r := by
  have hunit : i.cls.unit = .rs := (aluResult_isSome _ _ _ _ _ _).1 (by rw [h]; rfl)
  simp [resultOf, accessWidth_eq_none hunit, h]

theorem resultOf_of_access {i : Instr} {w : Width} (h : accessWidth i.cls = some w) (a : ArchState) :
    resultOf i a =
      { value := if isStore i.cls then 0#32 else a.mem.load w (loadsSigned i.cls) (accessAddr i a)
        nextPc := a.pc + 4#32 } := by
  simp [resultOf, h]

/-- Truncation keeps the low bytes. -/
theorem byteOfWord_setWidth (v : Word) {n k : Nat} (h : 8 * (k + 1) ≤ n) :
    byteOfWord ((v.setWidth n).setWidth 32) k = byteOfWord v k := by
  ext j hj
  simp only [byteOfWord, BitVec.getElem_extractLsb', BitVec.getLsbD_setWidth]
  by_cases hk : 8 * k + j < 32
  · simp [hk, show 8 * k + j < n by omega]
  · simp [hk, BitVec.getLsbD_of_ge v (8 * k + j) (by omega)]

/-- R44, R127: a store's bytes are those of the data truncated to its width. -/
theorem store_requestData {c : OpClass} {w : Width} (hs : isStore c = true) (hw : accessWidth c = some w)
    (m : Memory) (a : Addr) (v : Word) : m.store w a (requestData c v) = m.store w a v := by
  have bytes : storeBytes w (requestData c v) = storeBytes w v := by
    cases w with
    | word => simp [requestData, hs, hw]
    | byte => simp [requestData, hs, hw, storeBytes, byteOfWord_setWidth]
    | half => simp [requestData, hs, hw, storeBytes, byteOfWord_setWidth]
  rw [Memory.store, Memory.store, bytes]

end Sys2Proof.Machine
end

section
/-! The sequential states a tick-level state stands for: the architectural one, and the one before each entry of the ROB,
had every older entry committed (R113, R116). -/

namespace Sys2Proof.Machine

/-! ### The ring of the ROB (R24) -/

/-- R24: the entry `n` places behind the head. -/
def robAt (c : Csu) (n : Nat) : RobIdx := c.robHead + Fin.ofNat robSize n

section Ring

variable {c : Csu} {i : RobIdx} {n : Nat}

theorem robAge_lt (c : Csu) (i : RobIdx) : robAge c i < robSize := Nat.mod_lt _ (by decide)

theorem robAge_robAt (hn : n < robSize) : robAge c (robAt c n) = n := by
  have hh := c.robHead.isLt
  simp only [robAge, robAt, Fin.val_add, Fin.ofNat, robSize] at *
  omega

theorem robAt_robAge (c : Csu) (i : RobIdx) : robAt c (robAge c i) = i := by
  have hh := c.robHead.isLt
  have hi := i.isLt
  ext
  simp only [robAge, robAt, Fin.val_add, Fin.ofNat, robSize] at *
  omega

theorem robAt_zero (c : Csu) : robAt c 0 = c.robHead := by
  rw [← robAge_head c, robAt_robAge]

theorem occupied_iff (hp : c.pointersOk = true) : (c.rob[i]).state ≠ .empty ↔ robAge c i < c.robCount := by
  rw [((pointersOk_iff c).1 hp).2.2 i, Csu.live, decide_eq_true_iff, robAge]

theorem occupied_robAt (hp : c.pointersOk = true) (hn : n < c.robCount) : (c.rob[robAt c n]).state ≠ .empty := by
  have hc := ((pointersOk_iff c).1 hp).1
  rw [occupied_iff hp, robAge_robAt (hn.trans_le hc)]
  exact hn

theorem robAge_tail (hp : c.pointersOk = true) (hc : c.robCount < robSize) : robAge c c.robTail = c.robCount := by
  have ht := ((pointersOk_iff c).1 hp).2.1
  have hh := c.robHead.isLt
  simp only [robAge, robSize] at *
  omega

/-- R108: the entry allocated last is the youngest. -/
theorem robAge_last (hp : c.pointersOk = true) (hi : (c.rob[i]).state ≠ .empty) (ht : i + 1 = c.robTail) :
    robAge c i + 1 = c.robCount := by
  have hlt := (occupied_iff hp).1 hi
  obtain ⟨hc, htail, -⟩ := (pointersOk_iff c).1 hp
  have hh := c.robHead.isLt
  have hv := i.isLt
  have hs : (i.val + 1) % robSize = c.robTail.val := by rw [← ht]; rfl
  simp only [robAge, robSize] at *
  omega

end Ring

/-! ### The states between the entries -/

/-- The instruction of a ROB entry. -/
def instrOf (e : RobEntry) : Instr :=
  match decodeWord Config.core e.word with
  | .ok i => i
  | .error _ => .halt

theorem instrOf_of_decode {e : RobEntry} {i : Instr} (h : decodeWord Config.core e.word = .ok i) : instrOf e = i := by
  simp [instrOf, h]

/-- An architectural state at another PC. -/
def ArchState.atPc (a : ArchState) (pc : Addr) : ArchState := { a with pc := pc }

/-- The same registers and memory. -/
def ArchState.Same (a b : ArchState) : Prop := a.regs = b.regs ∧ a.mem = b.mem

theorem ArchState.Same.atPc {a b : ArchState} (h : a.Same b) (pc : Addr) : a.atPc pc = b.atPc pc := by
  obtain ⟨hr, hm⟩ := h
  rw [ArchState.atPc, ArchState.atPc, hr, hm]

theorem ArchState.Same.eq {a b : ArchState} (h : a.Same b) (hpc : a.pc = b.pc) : a = b := by
  obtain ⟨hr, hm⟩ := h
  cases a
  cases b
  simp_all

theorem ArchState.Same.x {a b : ArchState} (h : a.Same b) (r : RegIdx) : a.x r = b.x r := by
  rw [ArchState.x, ArchState.x, h.1]

@[simp] theorem ArchState.x_atPc (a : ArchState) (pc : Addr) (r : RegIdx) : (a.atPc pc).x r = a.x r := rfl

/-- The architectural state once the `n` oldest entries have committed. -/
def viewAt (s : State) : Nat → ArchState
  | 0 => archView s
  | n + 1 => effectOf (instrOf s.csu.rob[robAt s.csu n]) ((viewAt s n).atPc (s.csu.rob[robAt s.csu n]).pc)

/-- The architectural state that entry `q` executes in. -/
def viewOf (s : State) (q : RobIdx) : ArchState := (viewAt s (robAge s.csu q)).atPc (s.csu.rob[q]).pc

/-- What entry `q` computes. -/
def entryResult (s : State) (q : RobIdx) : AluResult := resultOf (instrOf s.csu.rob[q]) (viewOf s q)

theorem viewAt_succ {s : State} {n : Nat} {q : RobIdx} (hq : robAt s.csu n = q) :
    viewAt s (n + 1) = effectOf (instrOf s.csu.rob[q]) ((viewAt s n).atPc (s.csu.rob[q]).pc) := by
  subst hq
  rfl

/-- The state after an entry. -/
theorem viewAt_succ_robAge (s : State) (q : RobIdx) :
    viewAt s (robAge s.csu q + 1) = effectOf (instrOf s.csu.rob[q]) (viewOf s q) :=
  viewAt_succ (robAt_robAge s.csu q)

/-- R116: a register that no entry from the `m`th on writes. -/
theorem viewAt_x_of_no_writer {s : State} {r : RegIdx} {m n : Nat} (hmn : m ≤ n)
    (h : ∀ k, m ≤ k → k < n → ¬ ((issueReqOf (instrOf s.csu.rob[robAt s.csu k])).hasRd = true ∧
      (issueReqOf (instrOf s.csu.rob[robAt s.csu k])).rd = r)) : (viewAt s n).x r = (viewAt s m).x r := by
  induction n, hmn using Nat.le_induction with
  | base => rfl
  | succ n hn ih =>
    rw [viewAt, x_effectOf, if_neg (h n hn n.lt_succ_self), ArchState.x_atPc]
    exact ih fun k hk hkn => h k hk (hkn.trans n.lt_succ_self)

/-- R116: memory where no entry from the `m`th on stores. -/
theorem viewAt_mem_of_no_store {s : State} {m n : Nat} (hmn : m ≤ n)
    (h : ∀ k, m ≤ k → k < n → storeWidth (instrOf s.csu.rob[robAt s.csu k]) = none) :
    (viewAt s n).mem = (viewAt s m).mem := by
  induction n, hmn using Nat.le_induction with
  | base => rfl
  | succ n hn ih =>
    have step : (viewAt s (n + 1)).mem = (viewAt s n).mem :=
      memAfter_of_not_store (h n hn n.lt_succ_self) _
    rw [step]
    exact ih fun k hk hkn => h k hk (hkn.trans n.lt_succ_self)

/-! ### The entries that stay through a plain tick -/

/-- R99: how many entries leave the ROB in a plain tick. -/
def popped (s : State) : Nat := if s.csu.commits then 1 else 0

/-- Entry `q` is occupied and does not commit. -/
def Stays (s : State) (q : RobIdx) : Prop :=
  (s.csu.rob[q]).state ≠ .empty ∧ (s.csu.commits = true → q ≠ s.csu.robHead)

theorem popped_le (s : State) : popped s ≤ s.csu.robCount := by
  unfold popped
  split
  next h => exact ((commits_iff _).1 h).1
  next => exact Nat.zero_le _

theorem stays_of_not_ready {s : State} {q : RobIdx} (h : (s.csu.rob[q]).state ≠ .empty)
    (hr : (s.csu.rob[q]).state ≠ .readyToCommit) : Stays s q :=
  ⟨h, fun hc he => hr (he ▸ ((commits_iff _).1 hc).2)⟩

theorem stays_iff {s : State} (hp : s.csu.pointersOk = true) {q : RobIdx} :
    Stays s q ↔ popped s ≤ robAge s.csu q ∧ robAge s.csu q < s.csu.robCount := by
  have head : q = s.csu.robHead ↔ robAge s.csu q = 0 := by
    rw [← robAge_head s.csu]
    exact (robAge_injective s.csu).eq_iff.symm
  rw [Stays, occupied_iff hp, ne_eq, head, popped]
  cases s.csu.commits with
  | true => simp; omega
  | false => simp

/-- The head executes in the architectural state. -/
theorem viewOf_head (s : State) : viewOf s s.csu.robHead = (archView s).atPc s.csu.headEntry.pc := by
  rw [viewOf, robAge_head]
  rfl

theorem viewAt_popped_of_commits {s : State} (hc : s.csu.commits = true) :
    viewAt s (popped s) = effectOf (instrOf s.csu.rob[s.csu.robHead]) (viewOf s s.csu.robHead) := by
  rw [← viewAt_succ_robAge, robAge_head, popped, hc]
  rfl

theorem viewAt_popped_of_not_commits {s : State} (hc : s.csu.commits = false) : viewAt s (popped s) = archView s := by
  rw [popped, hc]
  rfl

namespace PlainTick

variable {f : Fetched} {s t : State} {q : RobIdx}

theorem robCount (h : PlainTick f s t) :
    t.csu.robCount = s.csu.robCount - popped s + (if (issuing Config.core s f).isSome then 1 else 0) := by
  rw [h.csu, csuNext_robCount _ _ h.noFlush]
  rfl

theorem robAt_add_popped (h : PlainTick f s t) (n : Nat) : robAt t.csu n = robAt s.csu (n + popped s) := by
  rw [robAt, robAt, h.robHead, popped]
  split
  all_goals
    ext
    simp only [Fin.val_add, Fin.ofNat, robSize]
    omega

theorem robAge_add_popped (h : PlainTick f s t) (hs : Stays s q) : robAge t.csu q + popped s = robAge s.csu q := by
  have hp := noFault_pointers h.noFault
  obtain ⟨hle, hlt⟩ := (stays_iff hp).1 hs
  have hq : q = robAt t.csu (robAge s.csu q - popped s) := by
    rw [h.robAt_add_popped, Nat.sub_add_cancel hle, robAt_robAge]
  have hage := robAge_lt s.csu q
  have e := congrArg (robAge t.csu) hq
  rw [robAge_robAt (by omega)] at e
  omega

/-- An entry that stays keeps what issue put in it. -/
theorem rob_kept (h : PlainTick f s t) (hs : Stays s q) :
    (t.csu.rob[q]).state ≠ .empty ∧ (t.csu.rob[q]).word = (s.csu.rob[q]).word ∧
      (t.csu.rob[q]).cls = (s.csu.rob[q]).cls ∧ (t.csu.rob[q]).pc = (s.csu.rob[q]).pc ∧
      (t.csu.rob[q]).hasRd = (s.csu.rob[q]).hasRd ∧ (t.csu.rob[q]).rd = (s.csu.rob[q]).rd ∧
      (t.csu.rob[q]).specNext = (s.csu.rob[q]).specNext := by
  obtain ⟨he, hc⟩ := hs
  have hm := h.rob q
  generalize t.csu.rob[q] = e at hm
  cases hm with
  | commit hcom hi => exact absurd hi (hc hcom)
  | issue r hr hi hempty => exact absurd hempty he
  | aluDone | memDone | start => exact ⟨nofun, rfl, rfl, rfl, rfl, rfl, rfl⟩
  | keep => exact ⟨he, rfl, rfl, rfl, rfl, rfl, rfl⟩

theorem instrOf_kept (h : PlainTick f s t) (hs : Stays s q) : instrOf t.csu.rob[q] = instrOf s.csu.rob[q] := by
  obtain ⟨-, hw, -⟩ := h.rob_kept hs
  rw [instrOf, instrOf, hw]

/-- R106: the entry issued into is behind all that stay. -/
theorem robAge_tail_of_issuing (h : PlainTick f s t) {r : IssueReq} (hr : issuing Config.core s f = some r) :
    robAge t.csu s.csu.robTail + popped s = s.csu.robCount := by
  have hp := noFault_pointers h.noFault
  obtain ⟨-, -, hroom, -⟩ := issuing_some hr
  have hage := robAge_tail hp hroom
  have hq : s.csu.robTail = robAt t.csu (s.csu.robCount - popped s) := by
    rw [h.robAt_add_popped, Nat.sub_add_cancel (popped_le s), ← hage, robAt_robAge]
  have hle := popped_le s
  have e := congrArg (robAge t.csu) hq
  rw [robAge_robAt (by omega)] at e
  omega

/-- The occupied entries of the next state: those that stay, and the one issued. -/
theorem occupied_cases (h : PlainTick f s t) (hq : (t.csu.rob[q]).state ≠ .empty) :
    Stays s q ∨ ∃ r, issuing Config.core s f = some r ∧ q = s.csu.robTail := by
  obtain ⟨hc, he⟩ | ⟨hi, rfl⟩ := (h.rob_occupied_iff q).1 hq
  · exact .inl ⟨he, hc⟩
  · obtain ⟨r, hr⟩ := Option.isSome_iff_exists.1 hi
    exact .inr ⟨r, hr, rfl⟩

section Views

variable (h : PlainTick f s t) (base : (archView t).Same (viewAt s (popped s)))

include h base

/-- The sequential states are the same, counted from the new head. -/
theorem viewAt_same {n : Nat} (hn : n + popped s ≤ s.csu.robCount) : (viewAt t n).Same (viewAt s (n + popped s)) := by
  induction n with
  | zero => rw [Nat.zero_add]; exact base
  | succ n ih =>
    have hp := noFault_pointers h.noFault
    have hc := ((pointersOk_iff _).1 hp).1
    have hs : Stays s (robAt s.csu (n + popped s)) := by
      rw [stays_iff hp, robAge_robAt (by omega)]
      omega
    obtain ⟨-, -, -, hpc, -⟩ := h.rob_kept hs
    rw [Nat.add_right_comm, viewAt_succ (h.robAt_add_popped n), viewAt_succ rfl, h.instrOf_kept hs, hpc,
      (ih (by omega)).atPc]
    exact ⟨rfl, rfl⟩

theorem viewOf_kept (hs : Stays s q) : viewOf t q = viewOf s q := by
  have hlt := ((stays_iff (noFault_pointers h.noFault)).1 hs).2
  have hage := h.robAge_add_popped hs
  obtain ⟨-, -, -, hpc, -⟩ := h.rob_kept hs
  rw [viewOf, viewOf, hpc, ← hage]
  exact (h.viewAt_same base (by omega)).atPc _

theorem entryResult_kept (hs : Stays s q) : entryResult t q = entryResult s q := by
  rw [entryResult, entryResult, h.instrOf_kept hs, h.viewOf_kept base hs]

theorem viewOf_tail {r : IssueReq} (hr : issuing Config.core s f = some r) :
    viewOf t s.csu.robTail = (viewAt s s.csu.robCount).atPc s.csu.specPc := by
  have hage := h.robAge_tail_of_issuing hr
  rw [viewOf, h.rob_tail_of_issuing hr, ← hage]
  exact (h.viewAt_same base (by omega)).atPc _

end Views

end PlainTick

end Sys2Proof.Machine
end

section
/-! Memory with the stores of the youngest entries undone (R55, R56): through a plain tick it stays, the record a store leaves
undoing just that store. -/

namespace Sys2Proof.Machine

/-! ### Undoing the latest record -/

/-- R56: the latest record is undone first. -/
theorem undoAll_of_latest {m : Memory} {l l' : List Playback} {r : Playback} (hp : l'.Perm (r :: l))
    (hd : l'.Pairwise fun q r => q.ts ≠ r.ts) (hl : ∀ q ∈ l, q.ts < r.ts) :
    undoAll m l' = undoAll (undoOne m r) l := by
  have hd' : (r :: l).Pairwise fun q r => q.ts ≠ r.ts := hp.pairwise hd Ne.symm
  have sorted : (r :: descendingTs l).Pairwise fun q r => r.ts < q.ts :=
    List.pairwise_cons.2 ⟨fun q hq => hl q (mem_descendingTs.1 hq), descendingTs_pairwise (List.pairwise_cons.1 hd').2⟩
  have perm : (descendingTs l').Perm (r :: descendingTs l) := by
    rw [descendingTs_eq_insertionSort, descendingTs_eq_insertionSort]
    exact (List.perm_insertionSort _ _).trans (hp.trans (.cons r (List.perm_insertionSort _ _).symm))
  have same : descendingTs l' = r :: descendingTs l :=
    perm.eq_of_pairwise (fun _ _ _ _ h h' => absurd h h'.asymm) (descendingTs_pairwise hd) sorted
  rw [undoAll, same, List.foldl_cons, undoAll]

/-! ### The records from an entry on -/

/-- The records of uncommitted stores that are at least `m` places behind the head. -/
def recordsFrom (s : State) (m : Nat) : List Playback :=
  recordsWhere s.mem fun i => !commitsSlot s i && decide (m ≤ robAge s.csu i)

/-- Memory with those undone. -/
def undoneFrom (s : State) (m : Nat) : Memory := undoAll s.mem.bytes (recordsFrom s m)

/-- R57, R189: with every uncommitted store undone it is the architectural memory. -/
theorem undoneFrom_zero (s : State) : undoneFrom s 0 = (archView s).mem := by
  simp [undoneFrom, recordsFrom, archView]

theorem undoneFrom_of_no_record {s : State} {m : Nat}
    (h : ∀ i : RobIdx, ∀ r, s.mem.playback[i] = some r → commitsSlot s i = false → robAge s.csu i < m) :
    undoneFrom s m = s.mem.bytes := by
  have none : recordsFrom s m = [] := by
    rw [List.eq_nil_iff_forall_not_mem]
    intro r hr
    obtain ⟨i, hk, hi⟩ := mem_recordsWhere.1 hr
    simp only [Bool.and_eq_true, Bool.not_eq_true', decide_eq_true_eq] at hk
    exact absurd (h i r hi hk.1) (Nat.not_lt.2 hk.2)
  rw [undoneFrom, none]
  rfl

/-- R99: the slot of the entry in the commit latch is Empty. -/
theorem PipelineInv.commitsSlot_of_occupied {s : State} (hi : PipelineInv s) {q : RobIdx}
    (hq : (s.csu.rob[q]).state ≠ .empty) : commitsSlot s q = false := by
  rw [commitsSlot_eq_false_iff]
  rintro k hk rfl
  exact hq (hi.commitGone k hk)

/-- R52: the entries of the memory path are Executing, and the pending one is not the one whose result is out. -/
theorem PipelineInv.pending_entry {s : State} (hi : PipelineInv s) {p : MemRequest} (hp : s.mem.pending = some p) :
    (s.csu.rob[p.rob]).state = .executing ∧ (s.csu.rob[p.rob]).cls.unit = .lsq ∧
      ∀ o, s.mem.out = some o → o.rob ≠ p.rob := by
  obtain ⟨he, hu⟩ := (hi.memEntries p.rob).1 (by simp [memHolds, hp])
  refine ⟨he, hu, fun o ho heq => ?_⟩
  have nodup := hi.memNodup
  simp [memHolds, hp, ho, heq, List.nodup_append] at nodup

/-- R55: a store that is still pending has no record. -/
theorem PlaybackInv.no_record_of_pending {s : State} (hb : PlaybackInv s) (hi : PipelineInv s) {p : MemRequest}
    (hp : s.mem.pending = some p) : s.mem.playback[p.rob] = none := by
  obtain ⟨he, -, hout⟩ := hi.pending_entry hp
  cases hr : s.mem.playback[p.rob] with
  | none => rfl
  | some r =>
    obtain hready | ⟨o, ho, heq⟩ | hcommit := hb.owner p.rob r hr
    · exact absurd (he.symm.trans hready) (by decide)
    · exact absurd heq (hout o ho)
    · exact absurd ((hi.commitsSlot_of_occupied (he.trans_ne (by decide))).symm.trans hcommit) (by decide)

/-- R52: what is performed is pending. -/
theorem pending_of_performing {s : State} {p : MemRequest} (h : memPerforming s = some p) :
    s.mem.state = .busy2 ∧ s.mem.pending = some p := by
  unfold memPerforming at h
  split at h
  · cases h
  · split at h
    next hm => exact ⟨hm, h⟩
    all_goals cases h

namespace PlainTick

variable {f : Fetched} {s t : State} {i : RobIdx}

theorem commitsSlot_iff (h : PlainTick f s t) : commitsSlot t i = true ↔ s.csu.commits = true ∧ i = s.csu.robHead := by
  rw [Machine.commitsSlot_iff]
  constructor
  · rintro ⟨k, hk, rfl⟩
    obtain ⟨hc, rfl⟩ := h.commit_eq_some.1 hk
    exact ⟨hc, rfl⟩
  · rintro ⟨hc, rfl⟩
    exact ⟨_, h.commit_eq_some.2 ⟨hc, rfl⟩, rfl⟩

theorem commitsSlot_of_stays (h : PlainTick f s t) (hs : Stays s i) : commitsSlot t i = false := by
  rw [← Bool.not_eq_true, h.commitsSlot_iff]
  exact fun hc => hs.2 hc.1 hc.2

/-- The record kept for a slot that this tick does not write for is the same, counted from the new head. -/
theorem record_kept (h : PlainTick f s t) (hb : PlaybackInv s) (m : Nat)
    (hi : ∀ p w, memWriting s = some (p, w) → p.rob ≠ i) :
    (if !commitsSlot t i && decide (m ≤ robAge t.csu i) then t.mem.playback[i] else none) =
      if !commitsSlot s i && decide (m + popped s ≤ robAge s.csu i) then s.mem.playback[i] else none := by
  rw [h.playback_of_not_writing hi]
  cases hc : commitsSlot s i with
  | true => simp
  | false =>
    cases hr : s.mem.playback[i] with
    | none => simp
    | some r =>
      have hocc : (s.csu.rob[i]).state ≠ .empty := by
        obtain hready | ⟨o, ho, rfl⟩ | hcommit := hb.owner i r hr
        · exact hready.trans_ne (by decide)
        · exact (noFault_memOut h.noFault h.noFlush ho).trans_ne (by decide)
        · exact absurd (hc.symm.trans hcommit) (by decide)
      by_cases hs : s.csu.commits = true → i ≠ s.csu.robHead
      · have hage := h.robAge_add_popped ⟨hocc, hs⟩
        have hle : m ≤ robAge t.csu i ↔ m + popped s ≤ robAge s.csu i := by omega
        simp [h.commitsSlot_of_stays ⟨hocc, hs⟩, hle]
      · push Not at hs
        obtain ⟨hcom, rfl⟩ := hs
        have hct : commitsSlot t s.csu.robHead = true := h.commitsSlot_iff.2 ⟨hcom, rfl⟩
        simp [hct, robAge_head, popped, hcom]

/-- R52, R55: memory with the stores from the `m`th entry on undone, where this tick's store is among them. -/
theorem undoneFrom_eq (h : PlainTick f s t) (hb : PlaybackInv s) (hi : PipelineInv s) {m : Nat}
    (hm : ∀ p w, memWriting s = some (p, w) → m ≤ robAge t.csu p.rob) :
    undoneFrom t m = undoneFrom s (m + popped s) := by
  cases hw : memWriting s with
  | none =>
    have same : recordsFrom t m = recordsFrom s (m + popped s) :=
      List.filterMap_congr fun i _ => h.record_kept hb m fun p w e => absurd (hw.symm.trans e) (by simp)
    rw [undoneFrom, undoneFrom, same, h.bytes_of_not_writing hw]
  | some x =>
    obtain ⟨p, w⟩ := x
    have hpend := (pending_of_performing (memPerforming_of_writing hw)).2
    obtain ⟨hexec, -, -⟩ := hi.pending_entry hpend
    have hstays : Stays s p.rob := stays_of_not_ready (hexec.trans_ne (by decide)) (hexec.trans_ne (by decide))
    have perm : (recordsFrom t m).Perm (playbackOf s.mem p w :: recordsFrom s (m + popped s)) := by
      refine heldBy_fill (j := p.rob) ?_ ?_ fun k hk => h.record_kept hb m fun p' w' e => ?_
      · rw [hb.no_record_of_pending hi hpend, ite_self]
      · rw [h.playback_of_writing hw, if_pos]
        simp [h.commitsSlot_of_stays hstays, hm p w hw]
      · cases hw.symm.trans e
        exact hk.symm
    have latest : ∀ q ∈ recordsFrom s (m + popped s), q.ts < (playbackOf s.mem p w).ts := by
      intro q hq
      obtain ⟨i, -, hi⟩ := mem_recordsWhere.1 hq
      exact hb.past i q hi
    rw [undoneFrom, undoAll_of_latest perm ((hb.of_plainTick h).recordsWhere_distinct _) latest,
      h.bytes_of_writing hw, undoOne_store _ hb.memory, undoneFrom]

end PlainTick

end Sys2Proof.Machine
end

section
/-! What the machine's records stand for in the sequential reading (R116): the operands, the results and the requests of every
entry are those of its instruction in the state before it. -/

namespace Sys2Proof.Machine

/-! ### The statement -/

/-- R101: the result of entry `q` has not been broadcast. -/
def Unfinished (s : State) (q : RobIdx) : Prop :=
  (s.csu.rob[q]).state = .issued ∨ (s.csu.rob[q]).state = .executing

/-- R23, R108: an entry's fields are those of the instruction its word decodes to. -/
structure EntryOk (e : RobEntry) : Prop where
  decodes : decodeWord Config.core e.word = .ok (instrOf e)
  cls : e.cls = (instrOf e).cls
  hasRd : e.hasRd = (issueReqOf (instrOf e)).hasRd
  rd : e.rd = (issueReqOf (instrOf e)).rd
  access : e.cls.unit = .lsq → e.resolvedPc = e.pc + 4#32 ∧ e.specNext = e.pc + 4#32 ∧ e.mismatch = false

/-- R101: a completed entry holds what its instruction computes. -/
def FinishedOk (s : State) (q : RobIdx) : Prop :=
  (s.csu.rob[q]).value = (entryResult s q).value ∧ (s.csu.rob[q]).resolvedPc = (entryResult s q).nextPc ∧
    (s.csu.rob[q]).mismatch = ((s.csu.rob[q]).cls != .jalr && (s.csu.rob[q]).resolvedPc != (s.csu.rob[q]).specNext)

/-- R109: an operand stands for the value `w`. -/
def OperandOk (s : State) (w : Word) : Operand → Prop
  | .none => w = 0#32
  | .val v => v = w
  | .tag q => Unfinished s q ∧ (entryResult s q).value = w

/-- R110: a record of entry `q` has the operands and the immediate of its instruction. -/
structure RecordOk (s : State) (q : RobIdx) (o1 o2 : Operand) (imm : Word) : Prop where
  op1 : OperandOk s ((viewOf s q).src (issueReqOf (instrOf s.csu.rob[q])).src1) o1
  op2 : OperandOk s ((viewOf s q).src (issueReqOf (instrOf s.csu.rob[q])).src2) o2
  imm : imm = (issueReqOf (instrOf s.csu.rob[q])).imm

/-- R110: what a record of the ALU's path holds besides. -/
def FieldsOk (s : State) (q : RobIdx) (shamt : BitVec 5) (pc : Addr) : Prop :=
  shamt = (issueReqOf (instrOf s.csu.rob[q])).shamt ∧ pc = (s.csu.rob[q]).pc

/-- R127: a memory request is that of its entry's instruction. -/
structure RequestOk (s : State) (r : MemRequest) : Prop where
  type : r.type = requestType (instrOf s.csu.rob[r.rob]).cls
  signed : r.signed = loadsSigned (instrOf s.csu.rob[r.rob]).cls
  addr : r.addr = accessAddr (instrOf s.csu.rob[r.rob]) (viewOf s r.rob)
  data : r.data = requestData (instrOf s.csu.rob[r.rob]).cls
    ((viewOf s r.rob).src (issueReqOf (instrOf s.csu.rob[r.rob])).src2)

/-- All of them, and R92: the register of a committing entry is still marked. -/
structure ValuesOk (s : State) : Prop where
  entry : ∀ q : RobIdx, (s.csu.rob[q]).state ≠ .empty → EntryOk s.csu.rob[q]
  finished : ∀ q : RobIdx, (s.csu.rob[q]).state = .readyToCommit → FinishedOk s q
  issue : ∀ u, s.csu.issue = some u → RecordOk s u.rob u.op1 u.op2 u.imm ∧ FieldsOk s u.rob u.shamt u.pc
  slot : ∀ j : RsIdx, (s.rs.slot[j]).state ≠ .empty →
    RecordOk s (s.rs.slot[j]).rob (s.rs.slot[j]).op1 (s.rs.slot[j]).op2 (s.rs.slot[j]).imm ∧
      FieldsOk s (s.rs.slot[j]).rob (s.rs.slot[j]).shamt (s.rs.slot[j]).pc
  dispatch : ∀ d, s.rs.dispatch = some d →
    RecordOk s d.rob (.val d.a) (.val d.b) d.imm ∧ FieldsOk s d.rob d.shamt d.pc
  aluOut : ∀ o, s.alu.out = some o →
    o.value = (entryResult s o.rob).value ∧ o.nextPc = (entryResult s o.rob).nextPc
  lsq : ∀ j : LsqIdx, (s.lsq.entry[j]).state ≠ .empty →
    RecordOk s (s.lsq.entry[j]).rob (s.lsq.entry[j]).op1 (s.lsq.entry[j]).op2 (s.lsq.entry[j]).imm
  request : ∀ r, s.lsq.req = some r ∨ s.mem.pending = some r → RequestOk s r
  memOut : ∀ o, s.mem.out = some o → o.value = (entryResult s o.rob).value
  marked : ∀ k, s.csu.commit = some k → k.hasRd = true → s.rf.isBusy k.rd = true

/-! ### Broadcasts and snooping (R120) -/

theorem Unfinished.occupied {s : State} {q : RobIdx} (h : Unfinished s q) : (s.csu.rob[q]).state ≠ .empty := by
  obtain h | h := h
  · exact h.trans_ne (by decide)
  · exact h.trans_ne (by decide)

theorem Unfinished.stays {s : State} {q : RobIdx} (h : Unfinished s q) : Stays s q := by
  refine stays_of_not_ready h.occupied ?_
  obtain h | h := h
  · exact h.trans_ne (by decide)
  · exact h.trans_ne (by decide)

theorem broadcast_eq_some {s : State} {q : RobIdx} {v : Word} (h : s.broadcast q = some v) :
    (∃ o, s.alu.out = some o ∧ o.rob = q ∧ o.value = v) ∨ ∃ o, s.mem.out = some o ∧ o.rob = q ∧ o.value = v := by
  unfold State.broadcast at h
  split at h
  next w hw =>
    cases h
    exact .inl (aluBroadcast_eq_some.1 hw)
  next => exact .inr (memBroadcast_eq_some.1 h)

theorem broadcast_eq_none {s : State} {q : RobIdx} :
    s.broadcast q = none ↔ (∀ o, s.alu.out = some o → o.rob ≠ q) ∧ ∀ o, s.mem.out = some o → o.rob ≠ q := by
  constructor
  · intro h
    unfold State.broadcast at h
    split at h
    next => cases h
    next ha =>
      refine ⟨fun o ho hq => ?_, fun o ho hq => ?_⟩
      · rw [aluBroadcast_eq_some.2 ⟨o, ho, hq, rfl⟩] at ha
        cases ha
      · rw [memBroadcast_eq_some.2 ⟨o, ho, hq, rfl⟩] at h
        cases h
  · rintro ⟨ha, hm⟩
    rw [State.broadcast, aluBroadcast_eq_none ha, memBroadcast_eq_none hm]

/-- R101: what is broadcast for an entry is its result. -/
theorem ValuesOk.broadcast {s : State} (hv : ValuesOk s) {q : RobIdx} {v : Word} (h : s.broadcast q = some v) :
    v = (entryResult s q).value := by
  obtain ⟨o, ho, rfl, rfl⟩ | ⟨o, ho, rfl, rfl⟩ := broadcast_eq_some h
  · exact (hv.aluOut o ho).1
  · exact hv.memOut o ho

theorem OperandOk.of_resolved {s t : State} {w : Word} {o : Operand} (h : OperandOk s w o) (ho : o.resolved = true) :
    OperandOk t w o := by
  cases o with
  | none | val => exact h
  | tag => cases ho

/-- R119: the value of a resolved operand. -/
theorem OperandOk.value {s : State} {w : Word} {o : Operand} (h : OperandOk s w o) (ho : o.resolved = true) :
    o.value = w := by
  cases o with
  | none => exact h.symm
  | val => exact h
  | tag => cases ho

namespace PlainTick

variable {f : Fetched} {s t : State} {q : RobIdx}

theorem unfinished_of_no_broadcast (h : PlainTick f s t) (hq : Unfinished s q) (hb : s.broadcast q = none) :
    Unfinished t q := by
  obtain ⟨ha, hm⟩ := broadcast_eq_none.1 hb
  exact .inr ((h.rob_executing_iff q).2 (hq.imp_right fun he => ⟨he, ha, hm⟩))

/-- R120: a snooped operand stands for the same value. -/
theorem operandOk_snoop (h : PlainTick f s t) (base : (archView t).Same (viewAt s (popped s))) (hv : ValuesOk s)
    {w : Word} {o : Operand} (ho : OperandOk s w o) : OperandOk t w (s.snoop o) := by
  cases o with
  | none | val => exact ho
  | tag q =>
    obtain ⟨hq, hw⟩ := ho
    cases hb : s.broadcast q with
    | some v =>
      simp only [State.snoop, hb]
      exact (hv.broadcast hb).trans hw
    | none =>
      simp only [State.snoop, hb]
      exact ⟨h.unfinished_of_no_broadcast hq hb, by rw [h.entryResult_kept base hq.stays]; exact hw⟩

end PlainTick

/-! ### Operands are resolved to the registers before the instruction (R109) -/

section Resolve

variable {s : State} {r : RegIdx}

theorem archView_x (s : State) (r : RegIdx) : (archView s).x r = (rfNext s).read r := rfl

/-- R109 case 2: what the entry in the issue latch writes. -/
theorem viewAt_x_of_issue (hi : PipelineInv s) (ha : issueLatchAgrees s) (hv : ValuesOk s) {u : IssueLatch}
    (hu : s.csu.issue = some u) (hd : u.hasRd = true) :
    (viewAt s s.csu.robCount).x u.rd = (entryResult s u.rob).value := by
  obtain ⟨hissued, -⟩ := hi.issued_of_issue hu
  obtain ⟨hrd, hreg, hlast⟩ := ha u hu
  have hocc : (s.csu.rob[u.rob]).state ≠ .empty := hissued.trans_ne (by decide)
  have he := hv.entry u.rob hocc
  rw [← robAge_last hi.pointers hocc hlast, viewAt_succ_robAge, x_effectOf, if_pos]
  · rfl
  · rw [← he.hasRd, ← he.rd]
    exact ⟨hrd.trans hd, hreg⟩

/-- With no instruction issued to `r`, an entry whose instruction writes `r` is among those R96 counts. -/
theorem willWrite_robAt (hi : PipelineInv s) (ha : issueLatchAgrees s) (hv : ValuesOk s)
    (hn : ∀ u, s.csu.issue = some u → ¬ (u.hasRd = true ∧ u.rd = r)) {k : Nat} (hk : k < s.csu.robCount)
    (hw : (issueReqOf (instrOf s.csu.rob[robAt s.csu k])).hasRd = true ∧
      (issueReqOf (instrOf s.csu.rob[robAt s.csu k])).rd = r) : willWrite s r (robAt s.csu k) := by
  have hocc := occupied_robAt hi.pointers hk
  have he := hv.entry _ hocc
  have writes : (s.csu.rob[robAt s.csu k]).hasRd = true ∧ (s.csu.rob[robAt s.csu k]).rd = r :=
    ⟨he.hasRd.trans hw.1, he.rd.trans hw.2⟩
  refine (willWrite_iff hi.pointers).2 ⟨⟨hocc, writes⟩, fun u hu e => ?_⟩
  obtain ⟨hrd, hrd', -⟩ := ha u hu
  simp only [e] at hrd hrd'
  exact hn u hu ⟨hrd.symm.trans writes.1, hrd'.symm.trans writes.2⟩

/-- The registers with no instruction issued to `r`: its youngest writer's value. -/
theorem viewAt_x_of_youngest (hi : PipelineInv s) (ha : issueLatchAgrees s) (hv : ValuesOk s)
    (hn : ∀ u, s.csu.issue = some u → ¬ (u.hasRd = true ∧ u.rd = r)) {i : RobIdx} (hy : youngestWriter s r i) :
    (viewAt s s.csu.robCount).x r = (entryResult s i).value := by
  obtain ⟨hw, hmax⟩ := hy
  obtain ⟨⟨hocc, hd, hreg⟩, -⟩ := (willWrite_iff hi.pointers).1 hw
  have he := hv.entry i hocc
  rw [viewAt_x_of_no_writer ((occupied_iff hi.pointers).1 hocc), viewAt_succ_robAge, x_effectOf, if_pos]
  · rfl
  · rw [← he.hasRd, ← he.rd]
    exact ⟨hd, hreg⟩
  · intro k hk hlt hkw
    have hage := hmax _ (willWrite_robAt hi ha hv hn hlt hkw)
    rw [robAge_robAt (hlt.trans_le ((pointersOk_iff _).1 hi.pointers).1)] at hage
    omega

/-- With no writer in the ROB, the architectural value. -/
theorem viewAt_x_of_no_willWrite (hi : PipelineInv s) (ha : issueLatchAgrees s) (hv : ValuesOk s)
    (hn : ∀ u, s.csu.issue = some u → ¬ (u.hasRd = true ∧ u.rd = r)) (hw : ∀ i, ¬ willWrite s r i) :
    (viewAt s s.csu.robCount).x r = (archView s).x r :=
  viewAt_x_of_no_writer (Nat.zero_le _) fun _ _ hlt hkw => hw _ (willWrite_robAt hi ha hv hn hlt hkw)

theorem exists_youngestWriter (h : ∃ i, willWrite s r i) : ∃ i, youngestWriter s r i :=
  Set.exists_max_image {i | willWrite s r i} (robAge s.csu) (Set.toFinite _) h

/-- R109 cases 3a and 3b. -/
theorem fromRob_ok (hv : ValuesOk s) {q : RobIdx} (hq : (s.csu.rob[q]).state ≠ .empty) :
    OperandOk s (entryResult s q).value (resolveBusy.fromRob s q) ∧
      s.snoop (resolveBusy.fromRob s q) = resolveBusy.fromRob s q := by
  unfold resolveBusy.fromRob
  split
  next hr => exact ⟨(hv.finished q hr).1, rfl⟩
  next hr =>
    split
    next v hb => exact ⟨hv.broadcast hb, rfl⟩
    next hb =>
      refine ⟨⟨?_, rfl⟩, by simp [State.snoop, hb]⟩
      unfold Unfinished
      cases he : (s.csu.rob[q]).state with
      | empty => exact absurd he hq
      | issued => exact .inl rfl
      | executing => exact .inr rfl
      | readyToCommit => exact absurd he hr

/-- R109: the operand a register resolves to stands for its value before the instruction issued next, and this tick's
broadcasts leave it. -/
theorem resolveReg_ok (hi : PipelineInv s) (ha : issueLatchAgrees s) (hp : ProducerTableOk s) (hv : ValuesOk s)
    (hf : s.csu.flushReq = false) (r : RegIdx) :
    OperandOk s ((viewAt s s.csu.robCount).x r) (resolveReg s r) ∧ s.snoop (resolveReg s r) = resolveReg s r := by
  by_cases hr : r = 0#5
  · simp [resolveReg, hr, OperandOk, ArchState.x, State.snoop]
  by_cases hu : ∃ u, s.csu.issue = some u ∧ u.hasRd = true ∧ u.rd = r
  · obtain ⟨u, hu, hd, rfl⟩ := hu
    obtain ⟨hissued, -⟩ := hi.issued_of_issue hu
    have hb : s.broadcast u.rob = none := by
      refine broadcast_eq_none.2 ⟨fun o ho e => ?_, fun o ho e => ?_⟩
      · have := ((hi.aluEntries u.rob).1 (e ▸ aluOut_mem ho)).1
        exact absurd (hissued.symm.trans this) (by decide)
      · have := ((hi.memEntries u.rob).1 (e ▸ memOut_mem ho)).1
        exact absurd (hissued.symm.trans this) (by decide)
    rw [resolveReg_of_issue hr hu hd rfl, viewAt_x_of_issue hi ha hv hu hd]
    exact ⟨⟨.inl hissued, rfl⟩, by simp [State.snoop, hb]⟩
  · have hn : ∀ u, s.csu.issue = some u → ¬ (u.hasRd = true ∧ u.rd = r) := fun u h1 h2 => hu ⟨u, h1, h2⟩
    rw [resolveReg_of_not_issue hr hn]
    obtain ⟨youngest, unmarked⟩ := hp hf r hr
    by_cases hw : ∃ i, willWrite s r i
    · obtain ⟨i, hy⟩ := exists_youngestWriter hw
      obtain ⟨hbusy, hprod⟩ := youngest i hy
      obtain ⟨⟨hocc, -⟩, -⟩ := (willWrite_iff hi.pointers).1 hy.1
      rw [viewAt_x_of_youngest hi ha hv hn hy, resolveFromRf, if_pos hbusy, hprod, resolveBusy_of_not_commit]
      · exact fromRob_ok hv hocc
      · rintro k hk ⟨rfl, -⟩
        exact hocc (hi.commitGone k hk)
    · have hw : ∀ i, ¬ willWrite s r i := fun i h => hw ⟨i, h⟩
      rw [viewAt_x_of_no_willWrite hi ha hv hn hw, archView_x]
      by_cases hk : ∃ k, s.csu.commit = some k ∧ k.hasRd = true ∧ k.rd = r
      · obtain ⟨k, hk, hd, rfl⟩ := hk
        have hbusy := hv.marked k hk hd
        obtain hfree | ⟨k', hk', -, -, hprod⟩ := unmarked hw
        · exact absurd (hbusy.symm.trans hfree) (by decide)
        · obtain rfl : k = k' := Option.some.inj (hk.symm.trans hk')
          rw [resolveFromRf, if_pos hbusy, resolveBusy_of_commit hk hprod.symm hd rfl, rfNext_read_of_commit hk hd hr]
          exact ⟨rfl, rfl⟩
      · have hk : ∀ k, s.csu.commit = some k → ¬ (k.hasRd = true ∧ k.rd = r) := fun k h1 h2 => hk ⟨k, h1, h2⟩
        rw [rfNext_read_of_not_commit hr hk, resolveFromRf, if_neg]
        · exact ⟨rfl, rfl⟩
        · intro hbusy
          obtain hfree | ⟨k, hk', hd, hreg, -⟩ := unmarked hw
          · exact absurd (hbusy.symm.trans hfree) (by decide)
          · exact hk k hk' ⟨hd, hreg⟩

/-- R109, R110: an operand of the instruction issued. -/
theorem resolveSrc_ok (hi : PipelineInv s) (ha : issueLatchAgrees s) (hp : ProducerTableOk s) (hv : ValuesOk s)
    (hf : s.csu.flushReq = false) (src : Option RegIdx) :
    OperandOk s ((viewAt s s.csu.robCount).src src) (resolveSrc s src) ∧
      s.snoop (resolveSrc s src) = resolveSrc s src := by
  cases src with
  | none => exact ⟨rfl, rfl⟩
  | some r => exact resolveReg_ok hi ha hp hv hf r

end Resolve

end Sys2Proof.Machine
end

section
/-! The order in which accesses are performed (R124, R126): the LSQ holds its entries in program order, and an access is
performed only after every older one. -/

namespace Sys2Proof.Machine

/-! ### The statement -/

/-- R52: the access of entry `q` has been performed. -/
def Performed (s : State) (q : RobIdx) : Prop :=
  (s.csu.rob[q]).state = .readyToCommit ∨ ∃ o, s.mem.out = some o ∧ o.rob = q

/-- R30: how far behind the LSQ's head an entry is. -/
def lsqAge (q : Lsq) (j : LsqIdx) : Nat := (j.val + lsqSize - q.head.val) % lsqSize

/-- The accesses in program order. -/
structure OrderOk (s : State) : Prop where
  performed : ∀ q p : RobIdx, (s.csu.rob[q]).cls.unit = .lsq → (s.csu.rob[p]).cls.unit = .lsq →
    (s.csu.rob[p]).state ≠ .empty → Performed s q → ¬ Performed s p → robAge s.csu q < robAge s.csu p
  queue : ∀ i j : LsqIdx, (s.lsq.entry[i]).state ≠ .empty → (s.lsq.entry[j]).state ≠ .empty →
    lsqAge s.lsq i < lsqAge s.lsq j → robAge s.csu (s.lsq.entry[i]).rob < robAge s.csu (s.lsq.entry[j]).rob
  request : ∀ r, s.lsq.req = some r ∨ s.mem.pending = some r → ∀ j : LsqIdx, (s.lsq.entry[j]).state ≠ .empty →
    robAge s.csu r.rob < robAge s.csu (s.lsq.entry[j]).rob
  record : ∀ i : RobIdx, ∀ r, s.mem.playback[i] = some r → commitsSlot s i = false → (s.csu.rob[i]).cls.unit = .lsq

/-! ### Where an access is -/

theorem Performed.occupied {s : State} {q : RobIdx} (hi : PipelineInv s) (h : Performed s q) :
    (s.csu.rob[q]).state ≠ .empty := by
  obtain hr | ⟨o, ho, rfl⟩ := h
  · exact hr.trans_ne (by decide)
  · exact ((hi.memEntries o.rob).1 (memOut_mem ho)).1.trans_ne (by decide)

namespace PipelineInv

variable {s : State} {q : RobIdx}

theorem request_entry (hi : PipelineInv s) {r : MemRequest} (hr : s.lsq.req = some r ∨ s.mem.pending = some r) :
    (s.csu.rob[r.rob]).state = .executing ∧ (s.csu.rob[r.rob]).cls.unit = .lsq :=
  (hi.memEntries r.rob).1 (by obtain hr | hr := hr <;> simp [memHolds, hr])

/-- R101: an Executing access is in the LSQ, on its way to Memory, there, or its result is on the latch. -/
theorem access_cases (hi : PipelineInv s) (hx : (s.csu.rob[q]).state = .executing)
    (hu : (s.csu.rob[q]).cls.unit = .lsq) :
    (∃ j : LsqIdx, (s.lsq.entry[j]).state ≠ .empty ∧ (s.lsq.entry[j]).rob = q) ∨
      (∃ r, (s.lsq.req = some r ∨ s.mem.pending = some r) ∧ r.rob = q) ∨ ∃ o, s.mem.out = some o ∧ o.rob = q := by
  have hm := (hi.memEntries q).2 ⟨hx, hu⟩
  simp only [memHolds, List.mem_append] at hm
  obtain ((hm | hm) | hm) | hm := hm
  · obtain ⟨e, he, rfl⟩ := List.mem_map.1 hm
    obtain ⟨he, hne⟩ := List.mem_filter.1 he
    obtain ⟨j, hj, rfl⟩ := Vector.getElem_of_mem (Vector.mem_toList_iff.1 he)
    exact .inl ⟨⟨j, hj⟩, by simpa using hne, rfl⟩
  · cases hr : s.lsq.req with
    | none => simp [hr] at hm
    | some r => exact .inr (.inl ⟨r, .inl rfl, by simpa [hr, eq_comm] using hm⟩)
  · cases hr : s.mem.pending with
    | none => simp [hr] at hm
    | some r => exact .inr (.inl ⟨r, .inr rfl, by simpa [hr, eq_comm] using hm⟩)
  · cases ho : s.mem.out with
    | none => simp [ho] at hm
    | some o => exact .inr (.inr ⟨o, rfl, by simpa [ho, eq_comm] using hm⟩)

/-- R126: while Memory performs a request no other is on its way. -/
theorem eq_of_performing (hi : PipelineInv s) {p r : MemRequest} (hp : memPerforming s = some p)
    (hr : s.lsq.req = some r ∨ s.mem.pending = some r) : r = p := by
  obtain ⟨hm, hp⟩ := pending_of_performing hp
  obtain hr | hr := hr
  · exact absurd (hm.symm.trans (hi.reqFree r hr).1) (by decide)
  · exact Option.some.inj (hr.symm.trans hp)

/-- R102: the Issued entry is behind every other. -/
theorem age_lt_of_issued (hi : PipelineInv s) (ha : issueLatchAgrees s) {p : RobIdx}
    (hp : (s.csu.rob[p]).state = .issued) (hq : (s.csu.rob[q]).state ≠ .empty) (hn : (s.csu.rob[q]).state ≠ .issued) :
    robAge s.csu q < robAge s.csu p := by
  obtain ⟨u, hu, rfl⟩ := hi.issuedOnly p hp
  obtain ⟨-, -, hlast⟩ := ha u hu
  refine lt_of_le_of_ne (robAge_le_last hi.pointers hlast hq) fun e => hn ?_
  cases robAge_injective _ e
  exact hp

end PipelineInv

/-- The access performed in this tick is older than every one still to be performed. -/
theorem OrderOk.age_lt_of_performing {s : State} {q : RobIdx} (hi : PipelineInv s) (ha : issueLatchAgrees s) (ho : OrderOk s)
    {p : MemRequest} (hp : memPerforming s = some p)
    (hocc : (s.csu.rob[q]).state ≠ .empty)
    (hu : (s.csu.rob[q]).cls.unit = .lsq)
    (hne : p.rob ≠ q) (hn : ¬ Performed s q) : robAge s.csu p.rob < robAge s.csu q := by
  obtain ⟨hx, -, -⟩ := hi.pending_entry (pending_of_performing hp).2
  cases hs : (s.csu.rob[q]).state with
  | empty => exact absurd hs hocc
  | issued => exact hi.age_lt_of_issued ha hs (hx.trans_ne (by decide)) (hx.trans_ne (by decide))
  | readyToCommit => exact absurd (.inl hs) hn
  | executing =>
    obtain ⟨j, hj, rfl⟩ | ⟨r, hr, rfl⟩ | ho' := hi.access_cases hs hu
    · exact ho.request p (.inr (pending_of_performing hp).2) j hj
    · exact absurd (congrArg MemRequest.rob (hi.eq_of_performing hp hr)).symm hne
    · exact absurd (.inr ho') hn

namespace PlainTick

variable {f : Fetched} {s t : State} {q : RobIdx}

/-- R101: a completed entry was completed, or a broadcast names it. -/
theorem ready_cases (h : PlainTick f s t) (hq : (t.csu.rob[q]).state = .readyToCommit) :
    ((s.csu.rob[q]).state = .readyToCommit ∧ Stays s q ∧ t.csu.rob[q] = s.csu.rob[q]) ∨
      (∃ o, s.alu.out = some o ∧ o.rob = q ∧ (s.csu.rob[q]).state = .executing ∧
        t.csu.rob[q] = completedByAlu s.csu.rob[q] o) ∨
      ∃ o, s.mem.out = some o ∧ o.rob = q ∧ (s.csu.rob[q]).state = .executing ∧
        t.csu.rob[q] = completedByMem s.csu.rob[q] o := by
  have hm := h.rob q
  generalize t.csu.rob[q] = e at hm hq
  cases hm with
  | commit | issue | start => cases hq
  | aluDone o ho he hx => exact .inr (.inl ⟨o, ho, he, hx, rfl⟩)
  | memDone o ho he hx => exact .inr (.inr ⟨o, ho, he, hx, rfl⟩)
  | keep _ hc => exact .inl ⟨hq, ⟨hq.trans_ne (by decide), hc⟩, rfl⟩

/-- R52: an access performed after the tick was performed, or is in this tick. -/
theorem performed_cases (h : PlainTick f s t) (hi : PipelineInv s) (hu : (t.csu.rob[q]).cls.unit = .lsq)
    (hq : Performed t q) :
    Stays s q ∧ (s.csu.rob[q]).cls.unit = .lsq ∧ (Performed s q ∨ ∃ p, memPerforming s = some p ∧ p.rob = q) := by
  obtain hr | ⟨o, ho, rfl⟩ := hq
  · obtain ⟨hr, hs, he⟩ | ⟨o, ho, rfl, hx, he⟩ | ⟨o, ho, rfl, hx, he⟩ := h.ready_cases hr
    · rw [he] at hu
      exact ⟨hs, hu, .inl (.inl hr)⟩
    · rw [he] at hu
      exact absurd (hu.symm.trans ((hi.aluEntries o.rob).1 (aluOut_mem ho)).2) (by decide)
    · rw [he] at hu
      exact ⟨Unfinished.stays (.inr hx), hu, .inl (.inr ⟨o, ho, rfl⟩)⟩
  · rw [h.memOut, Option.map_eq_some_iff] at ho
    obtain ⟨p, hp, rfl⟩ := ho
    obtain ⟨hx, hlsq, -⟩ := hi.pending_entry (pending_of_performing hp).2
    exact ⟨Unfinished.stays (.inr hx), hlsq, .inr ⟨p, hp, rfl⟩⟩

theorem performed_kept (h : PlainTick f s t) (hs : Stays s q) (hq : Performed s q) : Performed t q := by
  obtain hr | ⟨o, ho, rfl⟩ := hq
  · refine .inl ?_
    obtain hr | hc := h.ready_stays_or_commits hr
    · exact hr
    · exact absurd (hc.symm.trans (h.commitsSlot_of_stays hs)) (by decide)
  · exact .inl (h.ready_of_memOut ho)

theorem performed_of_performing (h : PlainTick f s t) {p : MemRequest} (hp : memPerforming s = some p) :
    Performed t p.rob :=
  .inr ⟨memResult s.mem.bytes p, by rw [h.memOut, hp]; rfl, rfl⟩

/-! ### The LSQ -/

/-- R124: an occupied LSQ entry was occupied, or is the one accepted. -/
theorem lsqEntry_cases (h : PlainTick f s t) (hi : PipelineInv s) {j : LsqIdx}
    (hj : (t.lsq.entry[j]).state ≠ .empty) :
    ((s.lsq.entry[j]).state ≠ .empty ∧ (lsqDispatches s = true → j ≠ s.lsq.head) ∧
        (t.lsq.entry[j]).rob = (s.lsq.entry[j]).rob) ∨
      ∃ u, lsqAccepting s = some u ∧ j = s.lsq.tail ∧ (t.lsq.entry[j]).rob = u.rob := by
  have hm := h.lsqEntry hi j
  generalize t.lsq.entry[j] = e at hm hj
  cases hm with
  | dispatch => exact absurd rfl hj
  | accept u hu ht => exact .inr ⟨u, hu, ht, rfl⟩
  | snoop he =>
    refine .inl ⟨he.trans_ne (by decide), ?_, rfl⟩
    rintro hd rfl
    exact absurd (he.symm.trans (lsqDispatches_iff.1 hd).2.1) (by decide)
  | keep _ hd => exact .inl ⟨hj, hd, rfl⟩

theorem lsqAge_of_stays (h : PlainTick f s t) {j : LsqIdx} (hj : lsqDispatches s = true → j ≠ s.lsq.head) :
    lsqAge t.lsq j + (if lsqDispatches s then 1 else 0) = lsqAge s.lsq j := by
  have hlt := s.lsq.head.isLt
  have hv := j.isLt
  rw [lsqAge, lsqAge, h.lsq_head]
  cases hd : lsqDispatches s with
  | false => simp
  | true =>
    have hne : j.val ≠ s.lsq.head.val := fun e => hj hd (Fin.ext e)
    simp only [if_true, Fin.val_add, lsqSize, Fin.val_one] at *
    omega

/-- R128: the entry accepted goes behind all others. -/
theorem lsqAge_tail (h : PlainTick f s t) (hi : PipelineInv s) {u : IssueLatch} (hu : lsqAccepting s = some u) {j : LsqIdx}
    (hj : (s.lsq.entry[j]).state ≠ .empty) (hd : lsqDispatches s = true → j ≠ s.lsq.head) :
    lsqAge t.lsq j < lsqAge t.lsq s.lsq.tail := by
  have hlive := of_decide_eq_true ((hi.lsqOccupied j).1 hj)
  have hroom := hi.lsqCount_lt (by rw [hu]; rfl)
  have htail := hi.lsqTail
  have age : lsqAge s.lsq s.lsq.tail = s.lsq.count := by
    have hlt := s.lsq.head.isLt
    simp only [lsqAge, lsqSize] at *
    omega
  have hj' := h.lsqAge_of_stays hd
  have hempty := hi.lsqTail_empty hu
  have ht' := h.lsqAge_of_stays (j := s.lsq.tail) fun hdisp e => by
    have hready := (lsqDispatches_iff.1 hdisp).2.1
    simp only [← e] at hready
    exact absurd (hready.symm.trans hempty) (by decide)
  have : lsqAge s.lsq j < s.lsq.count := hlive
  omega

/-- R50, R126: a request on its way was the Ready head of the LSQ, or was on its way before. -/
theorem request_cases (h : PlainTick f s t) {r : MemRequest} (hr : t.lsq.req = some r ∨ t.mem.pending = some r) :
    (lsqDispatches s = true ∧ r = lsqRequest s.lsq.entry[s.lsq.head]) ∨
      (s.lsq.req = some r ∨ s.mem.pending = some r) := by
  obtain hr | hr := hr
  · exact .inl (h.req_eq_some.1 hr)
  · rw [h.mem_pending, memPendingNext, h.noFlush] at hr
    simp only [Bool.false_eq_true, if_false] at hr
    split at hr
    · exact .inr (.inl hr)
    · exact .inr (.inr hr)
    · cases hr

/-! ### The order is kept -/

section Order

variable (h : PlainTick f s t) (hi : PipelineInv s)

include h hi

theorem order_performed (ha : Machine.issueLatchAgrees s) (ho : OrderOk s) {p : RobIdx}
    (hqu : (t.csu.rob[q]).cls.unit = .lsq)
    (hpu : (t.csu.rob[p]).cls.unit = .lsq) (hp : (t.csu.rob[p]).state ≠ .empty) (hq : Performed t q)
    (hn : ¬ Performed t p) : robAge t.csu q < robAge t.csu p := by
  obtain ⟨hqs, hqu', hq⟩ := h.performed_cases hi hqu hq
  have hqage := h.robAge_add_popped hqs
  obtain hps | ⟨r, hr, rfl⟩ := h.occupied_cases hp
  · obtain ⟨-, -, hcls, -⟩ := h.rob_kept hps
    have hpage := h.robAge_add_popped hps
    have hpu' : (s.csu.rob[p]).cls.unit = .lsq := hcls ▸ hpu
    have hn' : ¬ Performed s p := fun hpp => hn (h.performed_kept hps hpp)
    have : robAge s.csu q < robAge s.csu p := by
      obtain hq | ⟨r, hr, rfl⟩ := hq
      · exact ho.performed q p hqu' hpu' hps.1 hq hn'
      · refine ho.age_lt_of_performing hi ha hr hps.1 hpu' ?_ hn'
        rintro rfl
        exact hn (h.performed_of_performing hr)
    omega
  · have htail := h.robAge_tail_of_issuing hr
    have hlt := (occupied_iff hi.pointers).1 hqs.1
    omega

/-- The record accepted is of the Issued entry, behind those the memory path holds. -/
theorem age_lt_of_accepting (ha : Machine.issueLatchAgrees s) {u : IssueLatch}
    (hu : lsqAccepting s = some u) (hx : (s.csu.rob[q]).state = .executing) :
    robAge t.csu q < robAge t.csu u.rob := by
  obtain ⟨hu, -⟩ := lsqAccepting_eq_some.1 hu
  obtain ⟨hissued, -⟩ := hi.issued_of_issue hu
  have hage := hi.age_lt_of_issued ha hissued (hx.trans_ne (by decide)) (hx.trans_ne (by decide))
  have hq := h.robAge_add_popped (Unfinished.stays (.inr hx))
  have hp := h.robAge_add_popped (Unfinished.stays (.inl hissued))
  omega

theorem order_queue (ha : Machine.issueLatchAgrees s) (ho : OrderOk s) {i j : LsqIdx}
    (hie : (t.lsq.entry[i]).state ≠ .empty)
    (hje : (t.lsq.entry[j]).state ≠ .empty) (hlt : lsqAge t.lsq i < lsqAge t.lsq j) :
    robAge t.csu (t.lsq.entry[i]).rob < robAge t.csu (t.lsq.entry[j]).rob := by
  obtain ⟨hi', hid, hir⟩ | ⟨u, hu, rfl, -⟩ := h.lsqEntry_cases hi hie
  · obtain ⟨hix, -⟩ := hi.lsqEntry_executing hi'
    rw [hir]
    obtain ⟨hj', hjd, hjr⟩ | ⟨u, hu, -, hjr⟩ := h.lsqEntry_cases hi hje
    · obtain ⟨hjx, -⟩ := hi.lsqEntry_executing hj'
      have hia := h.robAge_add_popped (Unfinished.stays (.inr hix))
      have hja := h.robAge_add_popped (Unfinished.stays (.inr hjx))
      have hil := h.lsqAge_of_stays hid
      have hjl := h.lsqAge_of_stays hjd
      have := ho.queue i j hi' hj' (by omega)
      rw [hjr]
      omega
    · rw [hjr]
      exact h.age_lt_of_accepting hi ha hu hix
  · obtain ⟨hj', hjd, -⟩ | ⟨u, -, rfl, -⟩ := h.lsqEntry_cases hi hje
    · exact absurd (h.lsqAge_tail hi hu hj' hjd) hlt.asymm
    · exact absurd hlt (lt_irrefl _)

theorem order_request (ha : Machine.issueLatchAgrees s) (ho : OrderOk s) {r : MemRequest}
    (hr : t.lsq.req = some r ∨ t.mem.pending = some r)
    {j : LsqIdx} (hj : (t.lsq.entry[j]).state ≠ .empty) : robAge t.csu r.rob < robAge t.csu (t.lsq.entry[j]).rob := by
  have before : (s.csu.rob[r.rob]).state = .executing ∧
      ∀ k : LsqIdx, (s.lsq.entry[k]).state ≠ .empty → (lsqDispatches s = true → k ≠ s.lsq.head) →
        robAge s.csu r.rob < robAge s.csu (s.lsq.entry[k]).rob := by
    obtain ⟨hd, rfl⟩ | hr := h.request_cases hr
    · have hready := (lsqDispatches_iff.1 hd).2.1
      have hocc : (s.lsq.entry[s.lsq.head]).state ≠ .empty := hready.trans_ne (by decide)
      refine ⟨(hi.lsqEntry_executing hocc).1, fun k hk hne => ho.queue _ k hocc hk ?_⟩
      have hlt := s.lsq.head.isLt
      have hk' := k.isLt
      have hne : k.val ≠ s.lsq.head.val := fun e => hne hd (Fin.ext e)
      simp only [lsqAge, lsqSize] at *
      omega
    · exact ⟨(hi.request_entry hr).1, fun k hk _ => ho.request r hr k hk⟩
  obtain ⟨hx, before⟩ := before
  obtain ⟨hj', hjd, hjr⟩ | ⟨u, hu, -, hjr⟩ := h.lsqEntry_cases hi hj
  · obtain ⟨hjx, -⟩ := hi.lsqEntry_executing hj'
    have hra := h.robAge_add_popped (Unfinished.stays (.inr hx))
    have hja := h.robAge_add_popped (Unfinished.stays (.inr hjx))
    have := before j hj' hjd
    rw [hjr]
    omega
  · rw [hjr]
    exact h.age_lt_of_accepting hi ha hu hx

theorem order_record (ho : OrderOk s) (hb : PlaybackInv s) {r : Playback}
    (hr : t.mem.playback[q] = some r) (hc : commitsSlot t q = false) : (t.csu.rob[q]).cls.unit = .lsq := by
  have before : Stays s q ∧ (s.csu.rob[q]).cls.unit = .lsq := by
    obtain ⟨p, w, hw, rfl, -⟩ | ⟨hs, hr, -⟩ := h.playback_cases hr
    · obtain ⟨hx, hu, -⟩ := hi.pending_entry (pending_of_performing (memPerforming_of_writing hw)).2
      exact ⟨Unfinished.stays (.inr hx), hu⟩
    · refine ⟨?_, ho.record q r hr hs⟩
      obtain hready | ⟨o, hout, rfl⟩ | hcom := hb.owner q r hr
      · refine ⟨hready.trans_ne (by decide), fun hcom e => ?_⟩
        exact absurd (hc.symm.trans (h.commitsSlot_iff.2 ⟨hcom, e⟩)) (by decide)
      · exact Unfinished.stays (.inr (noFault_memOut h.noFault h.noFlush hout))
      · exact absurd (hs.symm.trans hcom) (by decide)
  obtain ⟨-, -, hcls, -⟩ := h.rob_kept before.1
  rw [hcls]
  exact before.2

theorem orderOk (ha : Machine.issueLatchAgrees s) (ho : OrderOk s) (hb : PlaybackInv s) : OrderOk t where
  performed _ _ := h.order_performed hi ha ho
  queue _ _ := h.order_queue hi ha ho
  request _ hr _ := h.order_request hi ha ho hr
  record _ _ := h.order_record hi ho hb

end Order

end PlainTick

end Sys2Proof.Machine
end

section
/-! Memory in the sequential reading (R116): with every access before an entry performed, and every store from it on undone,
the byte array is the memory before that entry. -/

namespace Sys2Proof.Machine

/-! ### The statement -/

/-- R55, R57: the byte array and the records give the memory before every entry up to which all accesses are performed. -/
def MemoryOk (s : State) : Prop :=
  ∀ m, m ≤ s.csu.robCount →
    (∀ q : RobIdx, (s.csu.rob[q]).state ≠ .empty → (s.csu.rob[q]).cls.unit = .lsq → robAge s.csu q < m →
      Performed s q) →
    undoneFrom s m = (viewAt s m).mem

/-- What the machine keeps of the accesses it has not committed. -/
structure AccessOk (s : State) : Prop where
  pipeline : PipelineInv s
  playback : PlaybackInv s
  latch : issueLatchAgrees s
  values : ValuesOk s
  order : OrderOk s
  memory : MemoryOk s

/-- An entry with no record may be left out. -/
theorem undoneFrom_succ {s : State} {m : Nat}
    (h : ∀ i : RobIdx, robAge s.csu i = m → commitsSlot s i = false → s.mem.playback[i] = none) :
    undoneFrom s (m + 1) = undoneFrom s m := by
  have same : recordsFrom s (m + 1) = recordsFrom s m := by
    rw [recordsFrom, recordsFrom, recordsWhere, recordsWhere]
    refine List.filterMap_congr fun i _ => ?_
    cases hc : commitsSlot s i with
    | true => simp
    | false =>
      by_cases hm : robAge s.csu i = m
      · rw [h i hm hc, ite_self, ite_self]
      · have hle : m + 1 ≤ robAge s.csu i ↔ m ≤ robAge s.csu i := by omega
        simp only [hle]
  rw [undoneFrom, same, undoneFrom]

/-- R104: an entry that the LSQ is not given stores nothing. -/
theorem EntryOk.storeWidth_eq_none {e : RobEntry} (he : EntryOk e) (h : e.cls.unit ≠ .lsq) :
    storeWidth (instrOf e) = none := by
  refine storeWidth_of_rs ?_
  rw [← he.cls]
  cases hu : e.cls.unit with
  | rs => rfl
  | lsq => exact absurd hu h

/-! ### The access performed in this tick -/

namespace AccessOk

variable {s : State} {q : RobIdx} {p : MemRequest}

/-- R55: a record that has not been discarded is of a performed access. -/
theorem performed_of_record (ok : AccessOk s) {r : Playback} (hr : s.mem.playback[q] = some r)
    (hc : commitsSlot s q = false) : Performed s q := by
  obtain hready | hout | hcom := ok.playback.owner q r hr
  · exact .inl hready
  · exact .inr hout
  · exact absurd (hc.symm.trans hcom) (by decide)

theorem not_performed_of_performing (ok : AccessOk s) (hp : memPerforming s = some p) : ¬ Performed s p.rob := by
  obtain ⟨hx, -, hout⟩ := ok.pipeline.pending_entry (pending_of_performing hp).2
  rintro (hready | ⟨o, ho, e⟩)
  · exact absurd (hx.symm.trans hready) (by decide)
  · exact hout o ho e

theorem age_lt_of_performed (ok : AccessOk s) (hp : memPerforming s = some p) (hu : (s.csu.rob[q]).cls.unit = .lsq)
    (hq : Performed s q) : robAge s.csu q < robAge s.csu p.rob := by
  obtain ⟨hx, hpu, -⟩ := ok.pipeline.pending_entry (pending_of_performing hp).2
  exact ok.order.performed q p.rob hu hpu (hx.trans_ne (by decide)) hq (ok.not_performed_of_performing hp)

/-- R52: Memory performs an access on the memory before its instruction. -/
theorem bytes_of_performing (ok : AccessOk s) (hp : memPerforming s = some p) :
    s.mem.bytes = (viewOf s p.rob).mem := by
  obtain ⟨hx, -, -⟩ := ok.pipeline.pending_entry (pending_of_performing hp).2
  have hlt := (occupied_iff ok.pipeline.pointers).1 (hx.trans_ne (by decide) : (s.csu.rob[p.rob]).state ≠ .empty)
  have undone := ok.memory (robAge s.csu p.rob) hlt.le fun q hocc hu hage => by
    by_contra hn
    have := ok.order.age_lt_of_performing ok.pipeline ok.latch hp hocc hu (fun e => by simp [e] at hage) hn
    omega
  rw [undoneFrom_of_no_record] at undone
  · exact undone
  · exact fun i r hr hc => ok.age_lt_of_performed hp (ok.order.record i r hr hc) (ok.performed_of_record hr hc)

/-- R52, R127: what it reads or writes is what its instruction does. -/
theorem effect_of_performing (ok : AccessOk s) (hp : memPerforming s = some p) :
    (memResult s.mem.bytes p).value = (entryResult s p.rob).value ∧
      ((memWriting s = none ∧ memAfter (instrOf s.csu.rob[p.rob]) (viewOf s p.rob) = s.mem.bytes) ∨
        ∃ w, memWriting s = some (p, w) ∧
          memAfter (instrOf s.csu.rob[p.rob]) (viewOf s p.rob) = s.mem.bytes.store w p.addr p.data) := by
  have hpend := (pending_of_performing hp).2
  obtain ⟨hx, hu, -⟩ := ok.pipeline.pending_entry hpend
  have he := ok.values.entry p.rob (hx.trans_ne (by decide))
  have hr := ok.values.request p (.inr hpend)
  have hbytes := ok.bytes_of_performing hp
  obtain ⟨w, hw⟩ := Option.isSome_iff_exists.1 ((accessWidth_isSome _).2 (he.cls ▸ hu))
  obtain ⟨-, hwidth, hdir⟩ := requestType_valid hw
  rw [← hr.type] at hwidth hdir
  rw [entryResult, resultOf_of_access hw]
  cases hs : isStore (instrOf s.csu.rob[p.rob]).cls with
  | true =>
    rw [hs, if_pos rfl] at hdir
    refine ⟨by rw [memResult_of_write _ hdir]; rfl, .inr ⟨w, memWriting_of_write hp hdir hwidth, ?_⟩⟩
    rw [memAfter_of_storeWidth (storeWidth_eq_some.2 ⟨hs, hw⟩), hr.data, store_requestData hs hw, hr.addr, hbytes]
  | false =>
    rw [hs, if_neg Bool.false_ne_true] at hdir
    refine ⟨?_, .inl ⟨memWriting_of_read hp hdir, ?_⟩⟩
    · rw [memResult_of_read _ hdir hwidth, hr.signed, hr.addr, hbytes]
      rfl
    · rw [memAfter_of_not_store (by rw [storeWidth, hs]; rfl), hbytes]

end AccessOk

/-! ### A plain tick -/

namespace PlainTick

variable {f : Fetched} {s t : State} {q : RobIdx} {m : Nat}

/-- R52: the byte array after an access is the memory after its instruction. -/
theorem bytes_of_performing (h : PlainTick f s t) (ok : AccessOk s) {p : MemRequest} (hp : memPerforming s = some p) :
    t.mem.bytes = (viewAt s (robAge s.csu p.rob + 1)).mem := by
  rw [viewAt_succ_robAge]
  obtain ⟨-, ⟨hw, he⟩ | ⟨w, hw, he⟩⟩ := ok.effect_of_performing hp
  · exact (h.bytes_of_not_writing hw).trans he.symm
  · exact (h.bytes_of_writing hw).trans he.symm

/-- The access performed in this tick is the youngest performed one. -/
theorem age_le_of_performed (h : PlainTick f s t) (ok : AccessOk s) {p : MemRequest} (hp : memPerforming s = some p)
    (hu : (t.csu.rob[q]).cls.unit = .lsq) (hq : Performed t q) :
    Stays s q ∧ robAge s.csu q ≤ robAge s.csu p.rob := by
  obtain ⟨hs, hu, hq | ⟨p', hp', rfl⟩⟩ := h.performed_cases ok.pipeline hu hq
  · exact ⟨hs, (ok.age_lt_of_performed hp hu hq).le⟩
  · cases hp.symm.trans hp'
    exact ⟨hs, le_rfl⟩

/-- Where the access performed in this tick is among those before the `m`th entry, no store behind is left to undo. -/
theorem undoneFrom_of_performing (h : PlainTick f s t) (ok : AccessOk s) (hm : m + popped s ≤ s.csu.robCount)
    (hall : ∀ q : RobIdx, (t.csu.rob[q]).state ≠ .empty → (t.csu.rob[q]).cls.unit = .lsq → robAge t.csu q < m →
      Performed t q) {p : MemRequest} (hp : memPerforming s = some p) (hage : robAge t.csu p.rob < m) :
    undoneFrom t m = (viewAt s (m + popped s)).mem := by
  have hcount := ((pointersOk_iff _).1 ok.pipeline.pointers).1
  obtain ⟨hx, -, -⟩ := ok.pipeline.pending_entry (pending_of_performing hp).2
  have hpage := h.robAge_add_popped (Unfinished.stays (.inr hx))
  have noStore : ∀ k, robAge s.csu p.rob + 1 ≤ k → k < m + popped s →
      storeWidth (instrOf s.csu.rob[robAt s.csu k]) = none := by
    intro k hk hkm
    have hkage := robAge_robAt (c := s.csu) (n := k) (by omega)
    have hs : Stays s (robAt s.csu k) := by
      rw [stays_iff ok.pipeline.pointers]
      omega
    refine (ok.values.entry _ hs.1).storeWidth_eq_none fun hu => ?_
    obtain ⟨hocc, -, hcls, -⟩ := h.rob_kept hs
    have hkage' := h.robAge_add_popped hs
    have hu' : (t.csu.rob[robAt s.csu k]).cls.unit = .lsq := hcls ▸ hu
    have := (h.age_le_of_performed ok hp hu' (hall _ hocc hu' (by omega))).2
    omega
  rw [viewAt_mem_of_no_store (by omega) noStore, ← h.bytes_of_performing ok hp, undoneFrom_of_no_record]
  intro i r hr hc
  have hu := h.order_record ok.pipeline ok.order ok.playback hr hc
  have hperf : Performed t i := by
    obtain hready | hout | hcom := (ok.playback.of_plainTick h).owner i r hr
    · exact .inl hready
    · exact .inr hout
    · exact absurd (hc.symm.trans hcom) (by decide)
  obtain ⟨hs, hle⟩ := h.age_le_of_performed ok hp hu hperf
  have := h.robAge_add_popped hs
  omega

/-- R55, R116: the memory before the entry `m` places behind the new head. -/
theorem undoneFrom_mem (h : PlainTick f s t) (ok : AccessOk s) (hm : m + popped s ≤ s.csu.robCount)
    (hall : ∀ q : RobIdx, (t.csu.rob[q]).state ≠ .empty → (t.csu.rob[q]).cls.unit = .lsq → robAge t.csu q < m →
      Performed t q) : undoneFrom t m = (viewAt s (m + popped s)).mem := by
  by_cases hp : ∃ p, memPerforming s = some p ∧ robAge t.csu p.rob < m
  · obtain ⟨p, hp, hage⟩ := hp
    exact h.undoneFrom_of_performing ok hm hall hp hage
  · have hp : ∀ p, memPerforming s = some p → m ≤ robAge t.csu p.rob := fun p h1 =>
      Nat.not_lt.1 fun h2 => hp ⟨p, h1, h2⟩
    rw [h.undoneFrom_eq ok.playback ok.pipeline fun p w hw => hp p (memPerforming_of_writing hw)]
    refine ok.memory _ hm fun q hocc hu hage => ?_
    by_cases hs : Stays s q
    · have hqage := h.robAge_add_popped hs
      obtain ⟨hocc', -, hcls, -⟩ := h.rob_kept hs
      have hu' : (t.csu.rob[q]).cls.unit = .lsq := hcls ▸ hu
      obtain ⟨-, -, hq | ⟨p, hperf, rfl⟩⟩ :=
        h.performed_cases ok.pipeline hu' (hall q hocc' hu' (by omega))
      · exact hq
      · have := hp p hperf
        omega
    · have hc : s.csu.commits = true ∧ q = s.csu.robHead := by
        by_contra hc
        exact hs ⟨hocc, fun h1 h2 => hc ⟨h1, h2⟩⟩
      obtain ⟨hc, rfl⟩ := hc
      exact .inl ((commits_iff _).1 hc).2

/-- R91, R99, R116: the architectural state moves on by the instruction that commits. -/
theorem archView_same (h : PlainTick f s t) (ok : AccessOk s) : (archView t).Same (viewAt s (popped s)) := by
  constructor
  · have stored : t.rf.value = (archView s).regs := by rw [h.rf]; rfl
    cases hc : s.csu.commits with
    | false =>
      have hcommit : t.csu.commit = none := by rw [h.commit, hc]; rfl
      rw [viewAt_popped_of_not_commits hc]
      exact (rfValueNext_of_noCommit hcommit).trans stored
    | true =>
      have hcommit := h.commit_eq_some.2 ⟨hc, rfl⟩
      have hready := ((commits_iff _).1 hc).2
      have he := ok.values.entry s.csu.robHead (hready.trans_ne (by decide))
      obtain ⟨hvalue, -, -⟩ := ok.values.finished s.csu.robHead hready
      have hregs : (viewOf s s.csu.robHead).regs = (archView s).regs := by rw [viewOf_head]; rfl
      rw [viewAt_popped_of_commits hc, effectOf, regsAfter, hregs, ← he.hasRd, ← he.rd, archView, rfValueNext, hcommit, stored]
      simp only [Csu.commitLatch, Csu.headEntry]
      rw [hvalue]
      rfl
  · have hle : 0 + popped s ≤ s.csu.robCount := (Nat.zero_add _).le.trans (popped_le s)
    rw [← undoneFrom_zero, h.undoneFrom_mem ok hle fun q _ _ hq => absurd hq (Nat.not_lt_zero _), Nat.zero_add]

/-- R102: the access issued in this tick is not performed yet. -/
theorem not_performed_tail (h : PlainTick f s t) (hi : PipelineInv s) {r : IssueReq}
    (hr : issuing Config.core s f = some r) : ¬ Performed t s.csu.robTail := by
  have hissued : (t.csu.rob[s.csu.robTail]).state = .issued := by rw [h.rob_tail_of_issuing hr]; rfl
  rintro (hready | ⟨o, ho, e⟩)
  · exact absurd (hissued.symm.trans hready) (by decide)
  · have hx := (((h.pipelineInv hi).memEntries o.rob).1 (memOut_mem ho)).1
    simp only [e] at hx
    exact absurd (hissued.symm.trans hx) (by decide)

/-- An instruction of the ALU issued last changes no memory. -/
theorem memory_of_tail (h : PlainTick f s t) (ok : AccessOk s)
    (he : EntryOk t.csu.rob[s.csu.robTail])
    (hu : (t.csu.rob[s.csu.robTail]).cls.unit ≠ .lsq) (hn : robAge t.csu s.csu.robTail = m) :
    undoneFrom t (m + 1) = undoneFrom t m ∧ (viewAt t (m + 1)).mem = (viewAt t m).mem := by
  constructor
  · refine undoneFrom_succ fun i hage hc => ?_
    obtain rfl : i = s.csu.robTail := robAge_injective _ (hage.trans hn.symm)
    cases hrec : t.mem.playback[s.csu.robTail] with
    | none => rfl
    | some r => exact absurd (h.order_record ok.pipeline ok.order ok.playback hrec hc) hu
  · rw [viewAt_succ (q := s.csu.robTail) (by rw [← hn, robAt_robAge])]
    exact memAfter_of_not_store (he.storeWidth_eq_none hu) _

theorem memoryOk (h : PlainTick f s t) (ok : AccessOk s)
    (hentry : ∀ q : RobIdx, (t.csu.rob[q]).state ≠ .empty → EntryOk t.csu.rob[q]) : MemoryOk t := by
  have settled {m : Nat} (hm : m + popped s ≤ s.csu.robCount)
      (hall : ∀ q : RobIdx, (t.csu.rob[q]).state ≠ .empty → (t.csu.rob[q]).cls.unit = .lsq → robAge t.csu q < m →
        Performed t q) : undoneFrom t m = (viewAt t m).mem :=
    (h.undoneFrom_mem ok hm hall).trans (h.viewAt_same (h.archView_same ok) hm).2.symm
  intro m hm hall
  rw [h.robCount] at hm
  by_cases hlast : m + popped s ≤ s.csu.robCount
  · exact settled hlast hall
  have hle := popped_le s
  cases hi : issuing Config.core s f with
  | none =>
    simp only [hi, Option.isSome_none, Bool.false_eq_true, if_false] at hm
    omega
  | some r =>
    simp only [hi, Option.isSome_some, if_true] at hm
    have htail := h.robAge_tail_of_issuing hi
    have hocc : (t.csu.rob[s.csu.robTail]).state ≠ .empty := by rw [h.rob_tail_of_issuing hi]; exact nofun
    have hunit : (t.csu.rob[s.csu.robTail]).cls.unit ≠ .lsq := fun hu =>
      h.not_performed_tail ok.pipeline hi (hall _ hocc hu (by omega))
    obtain ⟨n, rfl⟩ : ∃ n, m = n + 1 := ⟨m - 1, by omega⟩
    obtain ⟨hundone, hmem⟩ := h.memory_of_tail ok (hentry _ hocc) hunit (m := n) (by omega)
    rw [hundone, hmem]
    exact settled (by omega) fun q hq hu hage => hall q hq hu (by omega)

end PlainTick

end Sys2Proof.Machine
end

section
/-! The records keep what they stand for through a plain tick: one lemma for each place of R26 to R33 that holds one. -/

namespace Sys2Proof.Machine

/-- R47, R104: what is issued is the word at the speculated PC, decoded. -/
def Fetches (f : Fetched) (s : State) : Prop :=
  ∀ r, f = .known r → ∃ i, decodeWord Config.core (fetchWord s) = .ok i ∧ r = issueReqOf i

/-- R107: past an access the fetch PC goes on in sequence. -/
theorem issueReqOf_guess_of_lsq {i : Instr} (h : i.cls.unit = .lsq) : (issueReqOf i).guess = .sequential := by
  cases i with
  | lb | lh | lw | lbu | lhu | sb | sh | sw => rfl
  | _ => cases h

@[simp] theorem ArchState.src_atPc (a : ArchState) (pc : Addr) (o : Option RegIdx) : (a.atPc pc).src o = a.src o := by
  cases o <;> rfl

/-- R133: an ALU's result is the entry's. -/
theorem entryResult_of_alu {s : State} {q : RobIdx} {d : DispatchLatch} {r : AluResult} (he : EntryOk s.csu.rob[q])
    (hc : d.cls = (s.csu.rob[q]).cls) (hd : RecordOk s q (.val d.a) (.val d.b) d.imm) (hf : FieldsOk s q d.shamt d.pc)
    (hr : aluResult d.cls d.a d.b d.imm d.shamt d.pc = some r) : entryResult s q = r := by
  obtain ⟨ha, hb, himm⟩ := hd
  obtain ⟨hshamt, hpc⟩ := hf
  refine resultOf_of_rs ?_
  rw [← hr, hc, he.cls, himm, hshamt, hpc, show d.a = _ from ha, show d.b = _ from hb]
  rfl

/-- R118: a record that does not wait has its operands. -/
theorem resolved_of_ne_awaiting {st : SlotState} {o1 o2 : Operand} (h : st = slotStateOf o1 o2)
    (hn : st ≠ .awaitingOperands) : o1.resolved = true ∧ o2.resolved = true := by
  refine slotStateOf_eq_ready.1 ?_
  rw [h, slotStateOf] at hn
  rw [slotStateOf]
  split
  next => rfl
  next hr => exact absurd (if_neg hr) hn

/-- R119: a resolved record, its operands' values read off. -/
theorem RecordOk.values {s : State} {q : RobIdx} {o1 o2 : Operand} {imm : Word}
    (hr : RecordOk s q o1 o2 imm) (h1 : o1.resolved = true) (h2 : o2.resolved = true) :
    RecordOk s q (.val o1.value) (.val o2.value) imm :=
  ⟨hr.op1.value h1, hr.op2.value h2, hr.imm⟩

/-- R102: the entry in the issue latch does not commit. -/
theorem PipelineInv.stays_of_issue {s : State} (hi : PipelineInv s) {u : IssueLatch} (hu : s.csu.issue = some u) :
    Stays s u.rob :=
  Unfinished.stays (.inl (hi.issued_of_issue hu).1)

namespace PlainTick

variable {f : Fetched} {s t : State} {q : RobIdx}

/-! ### Records of entries that stay -/

theorem fieldsOk_kept (h : PlainTick f s t) (hs : Stays s q) {shamt : BitVec 5} {pc : Addr}
    (hf : FieldsOk s q shamt pc) : FieldsOk t q shamt pc := by
  obtain ⟨-, -, -, hpc, -⟩ := h.rob_kept hs
  rw [FieldsOk, h.instrOf_kept hs, hpc]
  exact hf

section Kept

variable (h : PlainTick f s t) (ok : AccessOk s) {o1 o2 : Operand} {imm : Word} (hs : Stays s q)

include h ok hs

theorem recordOk_snoop (hr : RecordOk s q o1 o2 imm) : RecordOk t q (s.snoop o1) (s.snoop o2) imm := by
  have base := h.archView_same ok
  constructor
  · rw [h.viewOf_kept base hs, h.instrOf_kept hs]
    exact h.operandOk_snoop base ok.values hr.op1
  · rw [h.viewOf_kept base hs, h.instrOf_kept hs]
    exact h.operandOk_snoop base ok.values hr.op2
  · rw [h.instrOf_kept hs]
    exact hr.imm

theorem recordOk_of_resolved (hr : RecordOk s q o1 o2 imm) (h1 : o1.resolved = true) (h2 : o2.resolved = true) :
    RecordOk t q o1 o2 imm := by
  have base := h.archView_same ok
  constructor
  · rw [h.viewOf_kept base hs, h.instrOf_kept hs]
    exact hr.op1.of_resolved h1
  · rw [h.viewOf_kept base hs, h.instrOf_kept hs]
    exact hr.op2.of_resolved h2
  · rw [h.instrOf_kept hs]
    exact hr.imm

theorem requestOk_kept {r : MemRequest} (hq : r.rob = q) (hr : RequestOk s r) : RequestOk t r := by
  subst hq
  obtain ⟨htype, hsigned, haddr, hdata⟩ := hr
  constructor
  · rw [h.instrOf_kept hs, htype]
  · rw [h.instrOf_kept hs, hsigned]
  · rw [h.instrOf_kept hs, h.viewOf_kept (h.archView_same ok) hs, haddr]
  · rw [h.instrOf_kept hs, h.viewOf_kept (h.archView_same ok) hs, hdata]

end Kept

section Values

variable (h : PlainTick f s t) (ok : AccessOk s)

include h ok

/-! ### The ROB -/

theorem entryOk (hf : Fetches f s) (hq : (t.csu.rob[q]).state ≠ .empty) : EntryOk t.csu.rob[q] := by
  have hm := h.rob q
  generalize t.csu.rob[q] = e at hm hq
  cases hm with
  | commit => exact absurd rfl hq
  | aluDone o ho hi he =>
    subst hi
    obtain ⟨hdec, hcls, hrd, hreg, -⟩ := ok.values.entry o.rob (he.trans_ne (by decide))
    have hrs := ((ok.pipeline.aluEntries o.rob).1 (aluOut_mem ho)).2
    exact ⟨hdec, hcls, hrd, hreg, fun hu => absurd (hrs.symm.trans hu) (by decide)⟩
  | memDone o ho hi he =>
    obtain ⟨hdec, hcls, hrd, hreg, hacc⟩ := ok.values.entry q (he.trans_ne (by decide))
    exact ⟨hdec, hcls, hrd, hreg, hacc⟩
  | issue r hr hi he =>
    obtain ⟨i, hdec, rfl⟩ := hf r (issuing_some hr).1
    have hword : decodeWord Config.core (allocated Config.core s.csu.specPc (issueReqOf i)).word = .ok i := by
      rw [allocated, issueReqOf_word, encode_of_decodeWord hdec]
      exact hdec
    have hinstr := instrOf_of_decode hword
    constructor
    · rw [hinstr, hword]
    · rw [hinstr]
      exact issueReqOf_cls i
    · rw [hinstr]
      rfl
    · rw [hinstr]
      rfl
    · intro hu
      have hu' : (issueReqOf i).unit = .lsq := hu
      refine ⟨if_pos hu', ?_, rfl⟩
      rw [allocated, issueReqOf_guess_of_lsq ((issueReqOf_unit i).symm.trans hu')]
      rfl
  | start he =>
    obtain ⟨hdec, hcls, hrd, hreg, hacc⟩ := ok.values.entry q (he.trans_ne (by decide))
    exact ⟨hdec, hcls, hrd, hreg, hacc⟩
  | keep => exact ok.values.entry q hq

theorem finishedOk (hq : (t.csu.rob[q]).state = .readyToCommit) : FinishedOk t q := by
  have base := h.archView_same ok
  obtain ⟨hr, hs, he⟩ | ⟨o, ho, rfl, hx, he⟩ | ⟨o, ho, rfl, hx, he⟩ := h.ready_cases hq
  · rw [FinishedOk, h.entryResult_kept base hs, he]
    exact ok.values.finished q hr
  · obtain ⟨hvalue, hnext⟩ := ok.values.aluOut o ho
    rw [FinishedOk, h.entryResult_kept base (Unfinished.stays (.inr hx)), he]
    exact ⟨hvalue, hnext, rfl⟩
  · obtain ⟨-, hu⟩ := (ok.pipeline.memEntries o.rob).1 (memOut_mem ho)
    have hentry := ok.values.entry o.rob (hx.trans_ne (by decide))
    obtain ⟨hresolved, hspec, hmiss⟩ := hentry.access hu
    obtain ⟨w, hw⟩ := Option.isSome_iff_exists.1 ((accessWidth_isSome _).2 (hentry.cls ▸ hu))
    rw [FinishedOk, h.entryResult_kept base (Unfinished.stays (.inr hx)), he]
    refine ⟨ok.values.memOut o ho, ?_, ?_⟩
    · rw [entryResult, resultOf_of_access hw]
      exact hresolved
    · simp only [completedByMem]
      rw [hmiss, hresolved, hspec]
      simp

/-! ### Issue -/

/-- R110: the record issued. -/
theorem recordOk_issue (hp : ProducerTableOk s) (hf : Fetches f s) {u : IssueLatch} (hu : t.csu.issue = some u) :
    RecordOk t u.rob u.op1 u.op2 u.imm ∧ FieldsOk t u.rob u.shamt u.pc := by
  have base := h.archView_same ok
  obtain ⟨r, hr, rfl⟩ := h.issue_eq_some.1 hu
  obtain ⟨i, hdec, rfl⟩ := hf r (issuing_some hr).1
  have hentry := h.rob_tail_of_issuing hr
  have hinstr : instrOf t.csu.rob[s.csu.robTail] = i := by
    refine instrOf_of_decode ?_
    rw [hentry, allocated, issueReqOf_word, encode_of_decodeWord hdec]
    exact hdec
  have operand (src : Option RegIdx) : OperandOk t ((viewOf t s.csu.robTail).src src) (resolveSrc s src) := by
    obtain ⟨hok, hsnoop⟩ := resolveSrc_ok ok.pipeline ok.latch hp ok.values h.noFlush src
    rw [h.viewOf_tail base hr, ArchState.src_atPc, ← hsnoop]
    exact h.operandOk_snoop base ok.values hok
  simp only [issueLatchOf]
  refine ⟨⟨?_, ?_, ?_⟩, ?_, ?_⟩
  · rw [hinstr]; exact operand _
  · rw [hinstr]; exact operand _
  · rw [hinstr]
  · rw [hinstr]
  · rw [hentry]; rfl

/-! ### The ALU's path -/

theorem recordOk_slot {j : RsIdx} (hj : (t.rs.slot[j]).state ≠ .empty) :
    RecordOk t (t.rs.slot[j]).rob (t.rs.slot[j]).op1 (t.rs.slot[j]).op2 (t.rs.slot[j]).imm ∧
      FieldsOk t (t.rs.slot[j]).rob (t.rs.slot[j]).shamt (t.rs.slot[j]).pc := by
  have hm := h.slot j
  generalize t.rs.slot[j] = e at hm hj
  have stays (hocc : (s.rs.slot[j]).state ≠ .empty) : Stays s (s.rs.slot[j]).rob :=
    Unfinished.stays (.inr (ok.pipeline.slot_executing hocc))
  cases hm with
  | select => exact absurd rfl hj
  | accept u hu =>
    obtain ⟨hu, -⟩ := rsAccepting_eq_some.1 hu
    obtain ⟨hrec, hfields⟩ := ok.values.issue u hu
    have hs := ok.pipeline.stays_of_issue hu
    exact ⟨h.recordOk_snoop ok hs hrec, h.fieldsOk_kept hs hfields⟩
  | snoop he =>
    have hocc : (s.rs.slot[j]).state ≠ .empty := he.trans_ne (by decide)
    obtain ⟨hrec, hfields⟩ := ok.values.slot j hocc
    exact ⟨h.recordOk_snoop ok (stays hocc) hrec, h.fieldsOk_kept (stays hocc) hfields⟩
  | keep he =>
    obtain ⟨hrec, hfields⟩ := ok.values.slot j hj
    obtain ⟨h1, h2⟩ := resolved_of_ne_awaiting (ok.pipeline.slotState j hj) he
    exact ⟨h.recordOk_of_resolved ok (stays hj) hrec h1 h2, h.fieldsOk_kept (stays hj) hfields⟩

/-- R119: the record on its way to the ALU. -/
theorem recordOk_dispatch {d : DispatchLatch} (hd : t.rs.dispatch = some d) :
    RecordOk t d.rob (.val d.a) (.val d.b) d.imm ∧ FieldsOk t d.rob d.shamt d.pc := by
  rw [h.dispatch, Option.map_eq_some_iff] at hd
  obtain ⟨j, hj, rfl⟩ := hd
  have hready := rsSelect_ready hj
  have hocc : (s.rs.slot[j]).state ≠ .empty := hready.trans_ne (by decide)
  have hs : Stays s (s.rs.slot[j]).rob := Unfinished.stays (.inr (ok.pipeline.slot_executing hocc))
  obtain ⟨hrec, hfields⟩ := ok.values.slot j hocc
  obtain ⟨h1, h2⟩ := resolved_of_ne_awaiting (ok.pipeline.slotState j hocc) (hready.trans_ne (by decide))
  exact ⟨h.recordOk_of_resolved ok hs (hrec.values h1 h2) rfl rfl, h.fieldsOk_kept hs hfields⟩

/-- R132: the ALU's result. -/
theorem aluOut_ok {o : AluOut} (ho : t.alu.out = some o) :
    o.value = (entryResult t o.rob).value ∧ o.nextPc = (entryResult t o.rob).nextPc := by
  rw [h.alu, aluNext, h.noFlush] at ho
  simp only [Bool.false_eq_true, if_false] at ho
  split at ho
  next d hd =>
    unfold aluNextOut at ho
    split at ho
    next r hr =>
      cases ho
      have hx := (ok.pipeline.aluEntries d.rob).1 (by simp [aluHolds, hd])
      obtain ⟨hrec, hfields⟩ := ok.values.dispatch d hd
      have hresult := entryResult_of_alu (ok.values.entry d.rob (hx.1.trans_ne (by decide)))
        (ok.pipeline.dispatchClass d hd) hrec hfields hr
      rw [h.entryResult_kept (h.archView_same ok) (Unfinished.stays (.inr hx.1)), hresult]
      exact ⟨rfl, rfl⟩
    next => cases ho
  next => cases ho

/-! ### The memory path -/

theorem recordOk_lsq {j : LsqIdx} (hj : (t.lsq.entry[j]).state ≠ .empty) :
    RecordOk t (t.lsq.entry[j]).rob (t.lsq.entry[j]).op1 (t.lsq.entry[j]).op2 (t.lsq.entry[j]).imm := by
  have hm := h.lsqEntry ok.pipeline j
  generalize t.lsq.entry[j] = e at hm hj
  have stays (hocc : (s.lsq.entry[j]).state ≠ .empty) : Stays s (s.lsq.entry[j]).rob :=
    Unfinished.stays (.inr (ok.pipeline.lsqEntry_executing hocc).1)
  cases hm with
  | dispatch => exact absurd rfl hj
  | accept u hu =>
    obtain ⟨hu, -⟩ := lsqAccepting_eq_some.1 hu
    exact h.recordOk_snoop ok (ok.pipeline.stays_of_issue hu) (ok.values.issue u hu).1
  | snoop he =>
    have hocc : (s.lsq.entry[j]).state ≠ .empty := he.trans_ne (by decide)
    exact h.recordOk_snoop ok (stays hocc) (ok.values.lsq j hocc)
  | keep he =>
    obtain ⟨h1, h2⟩ := resolved_of_ne_awaiting (ok.pipeline.lsqState j hj) he
    exact h.recordOk_of_resolved ok (stays hj) (ok.values.lsq j hj) h1 h2

/-- R127: the request of the Ready head is its instruction's. -/
theorem requestOk {r : MemRequest} (hr : t.lsq.req = some r ∨ t.mem.pending = some r) : RequestOk t r := by
  obtain ⟨hd, rfl⟩ | hr := h.request_cases hr
  · have hready := (lsqDispatches_iff.1 hd).2.1
    have hocc : (s.lsq.entry[s.lsq.head]).state ≠ .empty := hready.trans_ne (by decide)
    have hx := (ok.pipeline.lsqEntry_executing hocc).1
    obtain ⟨h1, h2⟩ := resolved_of_ne_awaiting (ok.pipeline.lsqState _ hocc) (hready.trans_ne (by decide))
    obtain ⟨hop1, hop2, himm⟩ := ok.values.lsq _ hocc
    have hcls : (s.lsq.entry[s.lsq.head]).cls = (instrOf s.csu.rob[(s.lsq.entry[s.lsq.head]).rob]).cls :=
      (ok.pipeline.lsqClass _ hocc).trans (ok.values.entry _ (hx.trans_ne (by decide))).cls
    refine h.requestOk_kept ok (Unfinished.stays (.inr hx)) rfl ?_
    exact ⟨congrArg requestType hcls, congrArg loadsSigned hcls, congrArg₂ effectiveAddr (hop1.value h1) himm,
      congrArg₂ requestData hcls (hop2.value h2)⟩
  · have hx := (ok.pipeline.request_entry hr).1
    exact h.requestOk_kept ok (Unfinished.stays (.inr hx)) rfl (ok.values.request r hr)

theorem memOut_ok {o : MemOut} (ho : t.mem.out = some o) : o.value = (entryResult t o.rob).value := by
  rw [h.memOut, Option.map_eq_some_iff] at ho
  obtain ⟨p, hp, rfl⟩ := ho
  have hx := (ok.pipeline.pending_entry (pending_of_performing hp).2).1
  have hs : Stays s (memResult s.mem.bytes p).rob := Unfinished.stays (.inr hx)
  rw [h.entryResult_kept (h.archView_same ok) hs]
  exact (ok.effect_of_performing hp).1

/-! ### The committing register -/

/-- R92: the register an entry writes is marked until the RF has stored its value. -/
theorem marked_of_commit (hp : ProducerTableOk s) {k : CommitLatch} (hk : t.csu.commit = some k)
    (hd : k.hasRd = true) : t.rf.isBusy k.rd = true := by
  obtain ⟨hc, rfl⟩ := h.commit_eq_some.1 hk
  have hready := ((commits_iff _).1 hc).2
  have hocc : (s.csu.rob[s.csu.robHead]).state ≠ .empty := hready.trans_ne (by decide)
  have hentry := ok.values.entry _ hocc
  have hr : s.csu.commitLatch.rd ≠ 0#5 := by
    have hne := IssueReq.rd_ne_zero (hentry.hasRd.symm.trans hd)
    rw [← hentry.rd] at hne
    exact hne
  have hw : willWrite s s.csu.commitLatch.rd s.csu.robHead := by
    refine (Machine.willWrite_iff ok.pipeline.pointers).2 ⟨⟨hocc, hd, rfl⟩, fun u hu e => ?_⟩
    have hissued := (ok.pipeline.issued_of_issue hu).1
    simp only [e] at hissued
    exact absurd (hissued.symm.trans hready) (by decide)
  obtain ⟨i, hy⟩ := exists_youngestWriter ⟨_, hw⟩
  obtain ⟨hbusy, hprod⟩ := (hp h.noFlush _ hr).1 i hy
  obtain ⟨⟨hiocc, -⟩, -⟩ := (Machine.willWrite_iff ok.pipeline.pointers).1 hy.1
  rw [h.rf]
  by_cases hu : ∃ u, s.csu.issue = some u ∧ u.hasRd = true ∧ u.rd = s.csu.commitLatch.rd
  · obtain ⟨u, hu, hud, e⟩ := hu
    rw [← e]
    exact (rfNext_busy_of_issue h.noFlush hu hud (e ▸ hr)).1
  · refine (rfNext_isBusy_of_not_issue h.noFlush hr fun u h1 h2 => hu ⟨u, h1, h2⟩).2 ⟨hbusy, ?_⟩
    rintro k hk ⟨-, -, hpk⟩
    obtain rfl : i = k.rob := hprod.symm.trans hpk
    exact hiocc (ok.pipeline.commitGone k hk)

theorem valuesOk (hp : ProducerTableOk s) (hf : Fetches f s) : ValuesOk t where
  entry _ := h.entryOk ok hf
  finished _ := h.finishedOk ok
  issue _ := h.recordOk_issue ok hp hf
  slot _ := h.recordOk_slot ok
  dispatch _ := h.recordOk_dispatch ok
  aluOut _ := h.aluOut_ok ok
  lsq _ := h.recordOk_lsq ok
  request _ := h.requestOk ok
  memOut _ := h.memOut_ok ok
  marked _ := h.marked_of_commit ok hp

theorem accessOk (hp : ProducerTableOk s) (hf : Fetches f s) : AccessOk t where
  pipeline := h.pipelineInv ok.pipeline
  playback := ok.playback.of_plainTick h
  latch := h.issueLatchAgrees
  values := h.valuesOk ok hp hf
  order := h.orderOk ok.pipeline ok.latch ok.order ok.playback
  memory := h.memoryOk ok fun _ => h.entryOk ok hf

end Values

end PlainTick

end Sys2Proof.Machine
end

section
/-! The fetched words (R61): a word in the ROB is the one memory holds at its address, unless a store changed a byte of it, and
then the check of R61 (log entry 7) has noted that. `code` is memory before tick 0. -/

namespace Sys2Proof.Machine

/-- A committed store changed byte `n`, or one that is among the `m` oldest entries or in the commit latch. -/
def Changed (s : State) (m n : Nat) : Prop :=
  n ∈ s.guard.stored ∨ ∃ q : RobIdx, (q, n) ∈ s.guard.pending ∧
    (commitsSlot s q = true ∨ ((s.csu.rob[q]).state ≠ .empty ∧ robAge s.csu q < m))

/-- What the check of R61 has noted is enough. -/
structure GuardOk (code : Memory) (s : State) : Prop where
  arch : ∀ a : Addr, (archView s).mem.read8 a = code.read8 a ∨ Changed s 0 a.toNat
  bytes : ∀ a : Addr, s.mem.bytes.read8 a = code.read8 a ∨ Changed s s.csu.robCount a.toNat
  stores : ∀ q : RobIdx, Performed s q → ∀ a : Addr,
    (memAfter (instrOf s.csu.rob[q]) (viewOf s q)).read8 a ≠ (viewOf s q).mem.read8 a → (q, a.toNat) ∈ s.guard.pending
  words : ∀ q : RobIdx, (s.csu.rob[q]).state ≠ .empty → ∀ k < 4,
    byteOfWord (s.csu.rob[q]).word k = code.read8 ((s.csu.rob[q]).pc + BitVec.ofNat 32 k) ∨
      Changed s (robAge s.csu q) ((s.csu.rob[q]).pc + BitVec.ofNat 32 k).toNat

theorem Changed.mono {s : State} {m m' n : Nat} (h : Changed s m n) (hm : m ≤ m') : Changed s m' n := by
  obtain h | ⟨q, hq, hc | ⟨hocc, hlt⟩⟩ := h
  · exact .inl h
  · exact .inr ⟨q, hq, .inl hc⟩
  · exact .inr ⟨q, hq, .inr ⟨hocc, hlt.trans_le hm⟩⟩

/-- R61: with no older entry, a change is what the check looks for. -/
theorem Changed.fetchesStored {s : State} {pc : Addr} {k : Nat} (hk : k < 4)
    (h : Changed s 0 (pc + BitVec.ofNat 32 k).toNat) : fetchesStored s pc = true := by
  refine fetchesStored_iff.2 ⟨k, hk, ?_⟩
  obtain h | ⟨q, hq, hc | ⟨-, hlt⟩⟩ := h
  · exact .inl h
  · obtain ⟨c, hcommit, rfl⟩ := (commitsSlot_iff s q).1 hc
    exact .inr ⟨c, hcommit, hq⟩
  · exact absurd hlt (Nat.not_lt_zero _)

/-- The bytes of a word read. -/
theorem byteOfWord_read32 (m : Memory) (a : Addr) {k : Nat} (hk : k < 4) :
    byteOfWord (m.read32 a) k = m.read8 (a + BitVec.ofNat 32 k) := by
  obtain ⟨h0, h1, h2, h3⟩ :=
    byteOfWord_wordOfBytes (m.read8 a) (m.read8 (a + 1#32)) (m.read8 (a + 2#32)) (m.read8 (a + 3#32))
  interval_cases k
  · simpa [Memory.read32] using h0
  · exact h1
  · exact h2
  · exact h3

theorem read32_eq_of_bytes {m : Memory} {a : Addr} {w : Word}
    (h : ∀ k < 4, m.read8 (a + BitVec.ofNat 32 k) = byteOfWord w k) : m.read32 a = w := by
  rw [← wordOfBytes_byteOfWord w, ← h 0 (by decide), ← h 1 (by decide), ← h 2 (by decide), ← h 3 (by decide)]
  simp [Memory.read32]

/-- A byte that a store changes is one of its own. -/
theorem read8_store_ne {m : Memory} (hm : m.wf = true) {w : Width} {a c : Addr} {v : Word}
    (h : (m.store w a v).read8 c ≠ m.read8 c) :
    ∃ k < w.bytes, c = a + BitVec.ofNat 32 k ∧ m.read8 c ≠ byteOfWord v k := by
  by_cases hc : ∃ k < w.bytes, c = a + BitVec.ofNat 32 k
  · obtain ⟨k, hk, rfl⟩ := hc
    rw [Memory.read8_store_inside hm w a v k hk] at h
    exact ⟨k, hk, rfl, h.symm⟩
  · push Not at hc
    exact absurd (Memory.read8_store_outside hm w a c v hc) h

/-- R61: a byte that this tick's store changes is noted. -/
theorem mem_changesNow_of_store {s : State} (hb : s.mem.bytes.wf = true) {p : MemRequest} {w : Width}
    (hw : memWriting s = some (p, w)) {a : Addr}
    (ha : (s.mem.bytes.store w p.addr p.data).read8 a ≠ s.mem.bytes.read8 a) : (p.rob, a.toNat) ∈ changesNow s := by
  obtain ⟨k, hk, rfl, hne⟩ := read8_store_ne hb ha
  exact mem_changesNow.2 ⟨p, w, k, hw, hk, rfl, rfl, hne⟩

namespace PlainTick

variable {f : Fetched} {s t : State} {q : RobIdx} {code : Memory}

theorem guard (h : PlainTick f s t) : t.guard = guardNext s := by rw [h.next]; rfl

theorem pending_of_changesNow (h : PlainTick f s t) {n : Nat} (hn : (q, n) ∈ changesNow s) :
    (q, n) ∈ t.guard.pending := by
  rw [h.guard]
  exact mem_guardNext_pending.2 ⟨h.noFlush, .inr hn⟩

theorem pending_kept (h : PlainTick f s t) (hi : PipelineInv s) {n : Nat} (hn : (q, n) ∈ s.guard.pending)
    (hq : (s.csu.rob[q]).state ≠ .empty) : (q, n) ∈ t.guard.pending := by
  rw [h.guard]
  exact mem_guardNext_pending.2
    ⟨h.noFlush, .inl ⟨hn, commitsSlot_eq_false_iff.1 (hi.commitsSlot_of_occupied hq)⟩⟩

/-- What is noted stays noted, counted from the new head. -/
theorem changed_kept (h : PlainTick f s t) (hi : PipelineInv s) {m n : Nat} (hc : Changed s (m + popped s) n) :
    Changed t m n := by
  obtain hc | ⟨q, hq, hc | ⟨hocc, hlt⟩⟩ := hc
  · exact .inl (by rw [h.guard]; exact mem_guardNext_stored.2 (.inl hc))
  · obtain ⟨c, hcommit, rfl⟩ := (Machine.commitsSlot_iff s q).1 hc
    exact .inl (by rw [h.guard]; exact mem_guardNext_stored.2 (.inr ⟨c, hcommit, hq⟩))
  · refine .inr ⟨q, h.pending_kept hi hq hocc, ?_⟩
    by_cases hs : s.csu.commits = true → q ≠ s.csu.robHead
    · have hage := h.robAge_add_popped ⟨hocc, hs⟩
      obtain ⟨hocc', -⟩ := h.rob_kept ⟨hocc, hs⟩
      exact .inr ⟨hocc', by omega⟩
    · push Not at hs
      exact .inl (h.commitsSlot_iff.2 hs)

section Guard

variable (h : PlainTick f s t) (ok : AccessOk s) (hg : GuardOk code s)

include h ok hg

theorem guard_arch (a : Addr) : (archView t).mem.read8 a = code.read8 a ∨ Changed t 0 a.toNat := by
  have before : (viewAt s (popped s)).mem.read8 a = code.read8 a ∨ Changed s (0 + popped s) a.toNat := by
    cases hc : s.csu.commits with
    | false =>
      rw [viewAt_popped_of_not_commits hc, popped, hc]
      exact hg.arch a
    | true =>
      obtain ⟨hcount, hready⟩ := (commits_iff _).1 hc
      have hview : (viewOf s s.csu.robHead).mem = (archView s).mem := by rw [viewOf_head]; rfl
      rw [viewAt_popped_of_commits hc, effectOf]
      by_cases ha : (memAfter (instrOf s.csu.rob[s.csu.robHead]) (viewOf s s.csu.robHead)).read8 a =
          (viewOf s s.csu.robHead).mem.read8 a
      · rw [ha, hview]
        exact (hg.arch a).imp_right fun h => h.mono (Nat.zero_le _)
      · refine .inr (.inr ⟨s.csu.robHead, hg.stores _ (.inl hready) a ha, .inr ⟨hready.trans_ne (by decide), ?_⟩⟩)
        rw [robAge_head, popped, hc]
        decide
  rw [(h.archView_same ok).2]
  exact before.imp_right (h.changed_kept ok.pipeline)

theorem guard_bytes (a : Addr) : t.mem.bytes.read8 a = code.read8 a ∨ Changed t t.csu.robCount a.toNat := by
  have hle : s.csu.robCount - popped s ≤ t.csu.robCount := by rw [h.robCount]; exact Nat.le_add_right _ _
  have before : s.mem.bytes.read8 a = code.read8 a ∨ Changed t t.csu.robCount a.toNat := by
    refine (hg.bytes a).imp_right fun hc => (h.changed_kept ok.pipeline ?_).mono hle
    rwa [Nat.sub_add_cancel (popped_le s)]
  cases hw : memWriting s with
  | none =>
    rw [h.bytes_of_not_writing hw]
    exact before
  | some x =>
    obtain ⟨p, w⟩ := x
    rw [h.bytes_of_writing hw]
    by_cases ha : (s.mem.bytes.store w p.addr p.data).read8 a = s.mem.bytes.read8 a
    · rw [ha]
      exact before
    · have hx := (ok.pipeline.pending_entry (pending_of_performing (memPerforming_of_writing hw)).2).1
      obtain ⟨hocc, -⟩ := h.rob_kept (Unfinished.stays (.inr hx))
      exact .inr (.inr ⟨p.rob, h.pending_of_changesNow (mem_changesNow_of_store ok.playback.memory hw ha),
        .inr ⟨hocc, (occupied_iff h.pointersOk).1 hocc⟩⟩)

theorem guard_stores (hf : Fetches f s) (hq : Performed t q) (a : Addr)
    (ha : (memAfter (instrOf t.csu.rob[q]) (viewOf t q)).read8 a ≠ (viewOf t q).mem.read8 a) :
    (q, a.toNat) ∈ t.guard.pending := by
  have hu : (t.csu.rob[q]).cls.unit = .lsq := by
    by_contra hu
    rw [memAfter_of_not_store ((h.entryOk ok hf (hq.occupied (h.pipelineInv ok.pipeline))).storeWidth_eq_none hu)] at ha
    exact ha rfl
  obtain ⟨hs, -, hq | ⟨p, hp, rfl⟩⟩ := h.performed_cases ok.pipeline hu hq
  · rw [h.instrOf_kept hs, h.viewOf_kept (h.archView_same ok) hs] at ha
    exact h.pending_kept ok.pipeline (hg.stores q hq a ha) hs.1
  · rw [h.instrOf_kept hs, h.viewOf_kept (h.archView_same ok) hs, ← ok.bytes_of_performing hp] at ha
    obtain ⟨-, ⟨-, he⟩ | ⟨w, hw, he⟩⟩ := ok.effect_of_performing hp
    · rw [he] at ha
      exact absurd rfl ha
    · rw [he] at ha
      exact h.pending_of_changesNow (mem_changesNow_of_store ok.playback.memory hw ha)

theorem guard_words (hf : Fetches f s) (hq : (t.csu.rob[q]).state ≠ .empty) {k : Nat} (hk : k < 4) :
    byteOfWord (t.csu.rob[q]).word k = code.read8 ((t.csu.rob[q]).pc + BitVec.ofNat 32 k) ∨
      Changed t (robAge t.csu q) ((t.csu.rob[q]).pc + BitVec.ofNat 32 k).toNat := by
  obtain hs | ⟨r, hr, rfl⟩ := h.occupied_cases hq
  · obtain ⟨-, hword, -, hpc, -⟩ := h.rob_kept hs
    rw [hword, hpc]
    refine (hg.words q hs.1 k hk).imp_right fun hc => h.changed_kept ok.pipeline ?_
    rwa [h.robAge_add_popped hs]
  · obtain ⟨i, hdec, rfl⟩ := hf r (issuing_some hr).1
    have hword : (t.csu.rob[s.csu.robTail]).word = fetchWord s := by
      rw [h.rob_tail_of_issuing hr, allocated, issueReqOf_word, encode_of_decodeWord hdec]
    have hpc : (t.csu.rob[s.csu.robTail]).pc = s.csu.specPc := by rw [h.rob_tail_of_issuing hr]; rfl
    rw [hword, hpc, fetchWord, byteOfWord_read32 _ _ hk]
    refine (hg.bytes _).imp_right fun hc => h.changed_kept ok.pipeline ?_
    rwa [h.robAge_tail_of_issuing hr]

theorem guardOk (hf : Fetches f s) : GuardOk code t where
  arch := h.guard_arch ok hg
  bytes := h.guard_bytes ok hg
  stores _ := h.guard_stores ok hg hf
  words _ hq _ := h.guard_words ok hg hf hq

end Guard

end PlainTick

end Sys2Proof.Machine
end

section
/-! The path of the PC (R99, R107, R112): in a tick that is no flush tick the entries follow one another from the actual PC on,
each at the next PC guessed for the one before it, or resolved for a jalr. -/

namespace Sys2Proof.Machine

/-- R107, R112: where issue goes on after an entry. -/
def succPc (e : RobEntry) : Addr := if e.cls = .jalr then e.resolvedPc else e.specNext

/-- The PC after the `n` oldest entries. -/
def pathPc (s : State) : Nat → Addr
  | 0 => s.csu.archPc
  | n + 1 => succPc s.csu.rob[robAt s.csu n]

/-- The path of the PC: a jalr whose target is not known is the last entry, for issue waits for it. -/
structure PathOk (s : State) : Prop where
  jalrLast : ∀ q : RobIdx, jalrUnresolved s.csu.rob[q] → q + 1 = s.csu.robTail
  entries : s.csu.flushReq = false → ∀ n < s.csu.robCount, (s.csu.rob[robAt s.csu n]).pc = pathPc s n
  fetch : s.csu.flushReq = false → s.csu.jalrWait = false → s.csu.specPc = pathPc s s.csu.robCount

theorem pathPc_succ {s : State} {n : Nat} {q : RobIdx} (hq : robAt s.csu n = q) :
    pathPc s (n + 1) = succPc s.csu.rob[q] := by
  subst hq
  rfl

/-- R99: the PC of the head is the actual one. -/
theorem PathOk.head_pc {s : State} (hp : PathOk s) (hf : s.csu.flushReq = false) (hc : 0 < s.csu.robCount) :
    s.csu.headEntry.pc = s.csu.archPc := by
  have h := hp.entries hf 0 hc
  simp only [robAt_zero] at h
  exact h

/-- With an entry behind it, a jalr is resolved. -/
theorem PathOk.not_unresolved {s : State} (hp : PathOk s) (hi : PipelineInv s) {q : RobIdx}
    (hq : robAge s.csu q + 1 < s.csu.robCount) : ¬ jalrUnresolved s.csu.rob[q] := by
  intro hj
  have hocc : (s.csu.rob[q]).state ≠ .empty := (occupied_iff hi.pointers).2 (by omega)
  have := robAge_last hi.pointers hocc (hp.jalrLast q hj)
  omega

/-- R101, R113: without a mismatch the next PC of the committing head is the one that was followed. -/
theorem succPc_head {s : State} (hv : ValuesOk s) (hc : s.csu.commits = true) (hf : s.csu.flushNow = false) :
    s.csu.headEntry.resolvedPc = succPc s.csu.rob[s.csu.robHead] := by
  obtain ⟨-, -, hmiss⟩ := hv.finished _ ((commits_iff _).1 hc).2
  have hno : (s.csu.rob[s.csu.robHead]).mismatch = false := by
    rw [Csu.flushNow, hc] at hf
    exact hf
  rw [hno, eq_comm, Bool.and_eq_false_iff, bne_eq_false_iff_eq, bne_eq_false_iff_eq] at hmiss
  rw [succPc]
  split
  next => rfl
  next hn =>
    obtain hj | he := hmiss
    · exact absurd hj hn
    · exact he

namespace PlainTick

variable {f : Fetched} {s t : State} {q : RobIdx}

theorem succPc_kept (h : PlainTick f s t) (hs : Stays s q) (hj : ¬ jalrUnresolved s.csu.rob[q]) :
    succPc t.csu.rob[q] = succPc s.csu.rob[q] := by
  obtain ⟨hocc, hc⟩ := hs
  have hm := h.rob q
  generalize t.csu.rob[q] = e at hm
  cases hm with
  | commit hcom hi => exact absurd hi (hc hcom)
  | issue r hr hi he => exact absurd he hocc
  | aluDone o ho hi he =>
    have hn : (s.csu.rob[q]).cls ≠ .jalr := fun hcls => hj ⟨hcls, .inr he⟩
    rw [succPc, succPc, if_neg hn]
    exact if_neg hn
  | memDone | start | keep => rfl

/-- R101, R112: a jalr that completes is the last entry, and issue goes on at its target. -/
theorem fetch_of_jalr (h : PlainTick f s t) (hi : PipelineInv s) (hp : PathOk s) {o : AluOut}
    (ho : s.alu.out = some o) (hc : (s.csu.rob[o.rob]).cls = .jalr) :
    t.csu.specPc = pathPc t t.csu.robCount := by
  have hx := noFault_aluOut h.noFault h.noFlush ho
  have hj : jalrUnresolved s.csu.rob[o.rob] := ⟨hc, .inr hx⟩
  have hs : Stays s o.rob := Unfinished.stays (.inr hx)
  have hidle : issuing Config.core s f = none :=
    Option.eq_none_iff_forall_ne_some.2 fun r hr => hi.not_issuing_of_jalr hj hr
  have hlast := robAge_last hi.pointers hs.1 (hp.jalrLast _ hj)
  have hadd := h.robAge_add_popped hs
  have hcount : t.csu.robCount = robAge t.csu o.rob + 1 := by
    rw [h.robCount, hidle]
    simp
    omega
  rw [hcount, pathPc_succ (robAt_robAge _ _), h.specPc, specPcNext, jalrCompletes_of_jalr ho hc, h.rob_of_aluOut ho,
    succPc]
  exact (if_pos hc).symm

/-- R112: nothing is issued behind a jalr whose target is not known. -/
theorem jalrLast (h : PlainTick f s t) (hi : PipelineInv s) (hp : PathOk s) (hj : jalrUnresolved t.csu.rob[q]) :
    q + 1 = t.csu.robTail := by
  rw [h.robTail]
  obtain ⟨rfl, r, hr, -⟩ | ⟨hj, -⟩ := h.jalrUnresolved_cases hj
  · rw [hr]
    rfl
  · have hidle : issuing Config.core s f = none :=
      Option.eq_none_iff_forall_ne_some.2 fun r hr => hi.not_issuing_of_jalr hj hr
    rw [hidle]
    exact hp.jalrLast q hj

section Path

variable (h : PlainTick f s t) (hi : PipelineInv s) (hv : ValuesOk s) (hp : PathOk s)

include h hi hv

/-- Where no jalr was resolved the path is the same, counted from the new head. -/
theorem pathPc_kept (hf : t.csu.flushReq = false) {n : Nat} (hn : n + popped s ≤ s.csu.robCount)
    (hj : 0 < n → ¬ jalrUnresolved s.csu.rob[robAt s.csu (n + popped s - 1)]) :
    pathPc t n = pathPc s (n + popped s) := by
  cases n with
  | zero =>
    rw [h.flushReq] at hf
    rw [pathPc, h.archPc, popped]
    split
    next hc =>
      rw [Nat.zero_add, pathPc_succ (robAt_zero _)]
      exact succPc_head hv hc hf
    next => rfl
  | succ n =>
    have hcount := ((pointersOk_iff _).1 hi.pointers).1
    have hs : Stays s (robAt s.csu (n + popped s)) := by
      rw [stays_iff hi.pointers, robAge_robAt (by omega)]
      omega
    have hlast : n + 1 + popped s - 1 = n + popped s := by omega
    simp only [hlast] at hj
    rw [Nat.add_right_comm, pathPc_succ (h.robAt_add_popped n), pathPc_succ rfl]
    exact h.succPc_kept hs (hj n.succ_pos)

include hp

/-- The path up to where issue goes on, with no jalr pending. -/
theorem pathPc_of_noWait (hf : t.csu.flushReq = false) (hw : s.csu.jalrWait = false) :
    pathPc t (s.csu.robCount - popped s) = s.csu.specPc := by
  have hle := popped_le s
  rw [h.pathPc_kept hi hv hf (by omega) fun _ hj => absurd ((hi.jalrStalls _ hj).symm.trans hw) (by decide),
    Nat.sub_add_cancel hle]
  exact (hp.fetch h.noFlush hw).symm

/-- R108: the entries follow one another. -/
theorem entry_pc (hf : t.csu.flushReq = false) {n : Nat} (hn : n < t.csu.robCount) :
    (t.csu.rob[robAt t.csu n]).pc = pathPc t n := by
  have hcount := ((pointersOk_iff _).1 h.pointersOk).1
  have hage := robAge_robAt (c := t.csu) (hn.trans_le hcount)
  obtain hs | ⟨r, hr, hq⟩ := h.occupied_cases (occupied_robAt h.pointersOk hn)
  · have hadd := h.robAge_add_popped hs
    have hlt := (occupied_iff hi.pointers).1 hs.1
    obtain ⟨-, -, -, hpc, -⟩ := h.rob_kept hs
    have hold := hp.entries h.noFlush (n + popped s) (by omega)
    simp only [← h.robAt_add_popped n] at hold
    rw [hpc, hold, h.pathPc_kept hi hv hf (by omega) fun h0 => hp.not_unresolved hi ?_]
    have hc := ((pointersOk_iff _).1 hi.pointers).1
    rw [robAge_robAt (by omega)]
    omega
  · have htail := h.robAge_tail_of_issuing hr
    rw [← hq, hage] at htail
    have hw := ((attempts_iff _).1 (issuing_some hr).2.1).2.2
    have hpath := h.pathPc_of_noWait hi hv hp hf hw
    rw [show s.csu.robCount - popped s = n by omega] at hpath
    rw [hpath]
    simp only [hq]
    rw [h.rob_tail_of_issuing hr]
    rfl

theorem specPc_path (hf : t.csu.flushReq = false) (hw : t.csu.jalrWait = false) :
    t.csu.specPc = pathPc t t.csu.robCount := by
  by_cases hj : ∃ o, s.alu.out = some o ∧ (s.csu.rob[o.rob]).cls = .jalr
  · obtain ⟨o, ho, hc⟩ := hj
    exact h.fetch_of_jalr hi hp ho hc
  · have hjn : jalrCompletes s = none := jalrCompletes_of_not_jalr fun o ho hc => hj ⟨o, ho, hc⟩
    cases hr : issuing Config.core s f with
    | none =>
      have hws : s.csu.jalrWait = false := by
        rw [h.jalrWait, jalrWaitNext, hjn, hr] at hw
        exact hw
      rw [h.specPc, specPcNext, hjn, hr, h.robCount, hr]
      exact (h.pathPc_of_noWait hi hv hp hf hws).symm
    | some r =>
      obtain ⟨hpc, hwait⟩ := h.fetch_of_issuing hr
      have hguess : r.guess ≠ .wait := fun hg => by simp [hwait, hg] at hw
      obtain ⟨i, rfl⟩ := h.decoded r (issuing_some hr).1
      have hcls : (issueReqOf i).cls ≠ .jalr := by
        rw [issueReqOf_cls]
        exact fun hc => hguess (issueReqOf_guess_eq_wait_iff.2 hc)
      have htail := h.robAge_tail_of_issuing hr
      have hcount : t.csu.robCount = robAge t.csu s.csu.robTail + 1 := by
        rw [h.robCount, hr]
        simp
        omega
      rw [hcount, pathPc_succ (robAt_robAge _ _), h.rob_tail_of_issuing hr, hpc, if_neg hguess, succPc]
      exact (if_neg hcls).symm

theorem pathOk : PathOk t where
  jalrLast _ := h.jalrLast hi hp
  entries hf _ := h.entry_pc hi hv hp hf
  fetch := h.specPc_path hi hv hp

end Path

end PlainTick

end Sys2Proof.Machine
end

section
/-! The machine refines sequential execution (R116): the invariant of every run, at reset, through a flush tick and through a
plain tick, and what one step does to the architectural state. -/

namespace Sys2Proof.Machine

/-- What holds in every state of a run from an image whose memory is `code`. -/
structure Refines (code : Memory) (s : State) : Prop where
  access : AccessOk s
  producer : ProducerTableOk s
  guard : GuardOk code s
  path : PathOk s

/-! ### With nothing in flight -/

/-- A drained machine at an instruction boundary: its memory in canonical form, no record, mark or flush pending, and every
changed byte noted. -/
structure Settled (code : Memory) (s : State) : Prop extends Drained s where
  memory : s.mem.bytes.wf = true
  noPlayback : ∀ i : RobIdx, s.mem.playback[i] = none
  notBusy : ∀ r : RegIdx, s.rf.isBusy r = false
  noFlush : s.csu.flushReq = false
  pcs : s.csu.specPc = s.csu.archPc
  noted : ∀ a : Addr, s.mem.bytes.read8 a = code.read8 a ∨ a.toNat ∈ s.guard.stored

theorem archView_mem_of_noPlayback {s : State} (h : ∀ i : RobIdx, s.mem.playback[i] = none) :
    (archView s).mem = s.mem.bytes := by
  rw [← undoneFrom_zero]
  exact undoneFrom_of_no_record fun i r hr => absurd ((h i).symm.trans hr) (by simp)

namespace Settled

variable {code : Memory} {s : State} (h : Settled code s)

include h

theorem not_performed (q : RobIdx) : ¬ Performed s q := by
  rintro (hr | ⟨o, ho, -⟩)
  · exact absurd ((h.robEmpty q).symm.trans hr) (by decide)
  · exact absurd (h.noMemOut.symm.trans ho) (by simp)

theorem valuesOk : ValuesOk s where
  entry q hq := absurd (h.robEmpty q) hq
  finished q hq := absurd ((h.robEmpty q).symm.trans hq) (by decide)
  issue := by simp [h.noIssue]
  slot j hj := absurd (h.rsEmpty j) hj
  dispatch := by simp [h.noDispatch]
  aluOut := by simp [h.noAluOut]
  lsq j hj := absurd (h.lsqEmpty j) hj
  request := by simp [h.noRequest, h.noPending]
  memOut := by simp [h.noMemOut]
  marked := by simp [h.noCommit]

theorem orderOk : OrderOk s where
  performed _ p _ _ hp := absurd (h.robEmpty p) hp
  queue i _ hi := absurd (h.lsqEmpty i) hi
  request _ _ j hj := absurd (h.lsqEmpty j) hj
  record i _ hr := absurd ((h.noPlayback i).symm.trans hr) (by simp)

theorem memoryOk : MemoryOk s := by
  intro m hm _
  obtain rfl : m = 0 := by simpa [h.robCount] using hm
  exact undoneFrom_zero s

theorem guardOk : GuardOk code s where
  arch a := by
    rw [archView_mem_of_noPlayback h.noPlayback]
    exact (h.noted a).imp_right .inl
  bytes a := (h.noted a).imp_right .inl
  stores q hq := absurd hq (h.not_performed q)
  words q hq := absurd (h.robEmpty q) hq

theorem pathOk : PathOk s where
  jalrLast q hq := absurd hq (h.not_jalrUnresolved q)
  entries _ n hn := absurd hn (by simp [h.robCount])
  fetch _ _ := by rw [h.robCount]; exact h.pcs

theorem refines : Refines code s where
  access :=
    { pipeline := h.pipelineInv
      playback := .of_noRecords h.memory h.noPlayback
      latch := h.issueLatchAgrees
      values := h.valuesOk
      order := h.orderOk
      memory := h.memoryOk }
  producer := h.producerTableOk h.notBusy
  guard := h.guardOk
  path := h.pathOk

end Settled

/-- R200: before tick 0. -/
theorem boot_settled (image : List ImageRecord) :
    Settled (bootWith Config.core image).mem.bytes (bootWith Config.core image) where
  toDrained := (boot_quiet image).drained
  memory := boot_memory_wf _ _
  noPlayback := boot_playback_get image
  notBusy := boot_isBusy image
  noFlush := rfl
  pcs := rfl
  noted _ := .inl rfl

/-! ### The two kinds of step -/

section Step

variable {code : Memory} {f : Fetched} {s t : State}

/-- R56: a flush tick leaves no record. -/
theorem noPlayback_of_flushTick (hf : s.csu.flushReq = true)
    (ht : t = afterSync Config.core (unitsNext Config.core f s)) (i : RobIdx) : t.mem.playback[i] = none := by
  rw [ht, afterSync_mem, unitsNext_mem, memNext_playback_get, memPlaybackNext_of_flush hf]

/-- R56, R99: a flush tick leaves the architectural state. -/
theorem archView_of_flushTick (hf : s.csu.flushReq = true)
    (ht : t = afterSync Config.core (unitsNext Config.core f s)) : archView t = archView s := by
  have hcommit : t.csu.commit = none := by rw [ht, csu_of_flushTick hf]; rfl
  have hplayback := noPlayback_of_flushTick hf ht
  have hregs : (archView t).regs = (archView s).regs := by
    rw [archView, rfValueNext_of_noCommit hcommit, ht]
    rfl
  have hpc : (archView t).pc = (archView s).pc := by
    rw [archView, ht, csu_of_flushTick hf]
    rfl
  have hmem : (archView t).mem = (archView s).mem := by
    rw [archView_mem_of_noPlayback hplayback, ht, afterSync_mem, unitsNext_mem, memNext_bytes, memBytesNext, if_pos hf]
    rfl
  exact ArchState.Same.eq ⟨hregs, hmem⟩ hpc

theorem Refines.of_flushTick (hr : Refines code s) (hf : s.csu.flushReq = true)
    (ht : t = afterSync Config.core (unitsNext Config.core f s)) : Refines code t := by
  have hview := archView_of_flushTick hf ht
  have hplayback := noPlayback_of_flushTick hf ht
  refine Settled.refines
    { toDrained := ht ▸ Drained.of_flushTick hf
      memory := ?_
      noPlayback := hplayback
      notBusy := ht ▸ isBusy_of_flush hf
      noFlush := ?_
      pcs := ?_
      noted := fun a => ?_ }
  · rw [ht]
    exact memBytesNext_wf hr.access.playback.memory
  · rw [ht, csu_of_flushTick hf]
    rfl
  · rw [ht, csu_of_flushTick hf]
    rfl
  · rw [← archView_mem_of_noPlayback hplayback, hview]
    refine (hr.guard.arch a).imp_right fun hc => ?_
    rw [ht]
    refine mem_guardNext_stored.2 ?_
    obtain hc | ⟨q, hq, hc | ⟨-, hlt⟩⟩ := hc
    · exact .inl hc
    · obtain ⟨c, hcommit, rfl⟩ := (commitsSlot_iff s q).1 hc
      exact .inr ⟨c, hcommit, hq⟩
    · exact absurd hlt (Nat.not_lt_zero _)

theorem Refines.of_plainTick (hr : Refines code s) (h : PlainTick f s t) (hf : Fetches f s) : Refines code t where
  access := h.accessOk hr.access hr.producer hf
  producer := h.producerTableOk hr.access.pipeline hr.access.latch hr.producer
  guard := h.guardOk hr.access hr.guard hf
  path := h.pathOk hr.access.pipeline hr.access.values hr.path

/-- A step with a next state is a flush tick or a plain tick at the word fetched. -/
theorem step_flush_or_fetch (h : step s = .next t) :
    (s.csu.flushReq = true ∧ ∃ f, t = afterSync Config.core (unitsNext Config.core f s)) ∨
      ∃ f, PlainTick f s t ∧ Fetches f s := by
  obtain ⟨-, f, hf, -, hn, rfl⟩ := step_cases h
  cases hq : s.csu.flushReq with
  | true => exact .inl ⟨rfl, f, rfl⟩
  | false =>
    have fetches : Fetches f s := by
      rintro r rfl
      obtain ⟨i, hdec, hi⟩ | ⟨e, -, hu⟩ := hf
      · exact ⟨i, hdec, Fetched.known.inj hi⟩
      · cases hu
    refine .inr ⟨f, ⟨hq, hn, fun r hr => ?_, rfl⟩, fetches⟩
    obtain ⟨i, -, hi⟩ := fetches r hr
    exact ⟨i, hi⟩

theorem Refines.of_step (hr : Refines code s) (h : step s = .next t) : Refines code t := by
  obtain ⟨hf, f, ht⟩ | ⟨f, ht, hf⟩ := step_flush_or_fetch h
  · exact hr.of_flushTick hf ht
  · exact hr.of_plainTick ht hf

theorem Refines.of_run (n : Nat) (hr : Refines code s) (h : Host.Core.run Sys2Proof.core n s = .next t) :
    Refines code t := by
  induction n generalizing s with
  | zero =>
    cases h
    exact hr
  | succ n ih =>
    simp only [Host.Core.run] at h
    split at h
    next u hu => exact ih (hr.of_step hu) h
    all_goals cases h

/-! ### What a step does to the architectural state -/

/-- R113, R115: a tick in which nothing commits is invisible. -/
theorem Refines.archView_of_noCommit (hr : Refines code s) (h : step s = .next t) (hc : t.csu.commit = none) :
    archView t = archView s := by
  obtain ⟨hf, f, ht⟩ | ⟨f, ht, -⟩ := step_flush_or_fetch h
  · exact archView_of_flushTick hf ht
  · have hcom : s.csu.commits = false := by
      rw [← Bool.not_eq_true]
      intro hcom
      exact absurd (hc.symm.trans (ht.commit_eq_some.2 ⟨hcom, rfl⟩)) (by simp)
    have hsame := ht.archView_same hr.access
    rw [viewAt_popped_of_not_commits hcom] at hsame
    refine hsame.eq ?_
    rw [archView, ht.archPc, hcom]
    rfl

/-- R61, R107: the head's word is the one the sequential execution fetches. -/
theorem Refines.fetch_head (hr : Refines code s) (hf : s.csu.flushReq = false) (hc : s.csu.commits = true)
    (hs : fetchesStored s s.csu.headEntry.pc = false) :
    decodeWord Config.core ((archView s).mem.read32 (archView s).pc) = .ok (instrOf s.csu.rob[s.csu.robHead]) := by
  obtain ⟨hcount, hready⟩ := (commits_iff _).1 hc
  have hocc : (s.csu.rob[s.csu.robHead]).state ≠ .empty := hready.trans_ne (by decide)
  have hpc : s.csu.headEntry.pc = (archView s).pc := hr.path.head_pc hf hcount
  have unchanged {k : Nat} (hk : k < 4) : ¬ Changed s 0 (s.csu.headEntry.pc + BitVec.ofNat 32 k).toNat := fun hch =>
    absurd ((hch.fetchesStored hk).symm.trans hs) (by decide)
  have hword : (archView s).mem.read32 s.csu.headEntry.pc = (s.csu.rob[s.csu.robHead]).word := by
    refine read32_eq_of_bytes fun k hk => ?_
    obtain harch | harch := hr.guard.arch (s.csu.headEntry.pc + BitVec.ofNat 32 k)
    · obtain hw | hw := hr.guard.words s.csu.robHead hocc k hk
      · exact harch.trans hw.symm
      · rw [robAge_head] at hw
        exact absurd hw (unchanged hk)
    · exact absurd harch (unchanged hk)
  rw [← hpc, hword]
  exact (hr.access.values.entry _ hocc).decodes

/-- R113: a commit is the effect of the head's instruction. -/
theorem Refines.archView_of_commit (hr : Refines code s) (ht : PlainTick f s t) (hc : s.csu.commits = true) :
    archView t = effectOf (instrOf s.csu.rob[s.csu.robHead]) (archView s) := by
  obtain ⟨hcount, hready⟩ := (commits_iff _).1 hc
  have hpc : s.csu.headEntry.pc = (archView s).pc := hr.path.head_pc ht.noFlush hcount
  have hview : viewOf s s.csu.robHead = archView s := by rw [viewOf_head, hpc]; rfl
  have hsame := ht.archView_same hr.access
  rw [viewAt_popped_of_commits hc, hview] at hsame
  obtain ⟨-, hresolved, -⟩ := hr.access.values.finished _ hready
  rw [entryResult, hview] at hresolved
  refine hsame.eq ?_
  rw [archView, ht.archPc, if_pos hc]
  exact hresolved

/-- R100: the a0 that the halt reads is the architectural one. -/
theorem currentA0_eq (s : State) : currentA0 s = (archView s).x 10#5 := by
  rw [archView_x]
  obtain ⟨k, hk, hd, hreg, he⟩ | ⟨hn, he⟩ := currentA0_cases s
  · rw [he, ← hreg, rfNext_read_of_commit hk hd (by rw [hreg]; decide)]
  · rw [he, rfNext_read_of_not_commit (by decide) hn]

/-- R87, R100: the tick in which the halt commits ends the run. -/
theorem PlainTick.status_of_halt (h : PlainTick f s t) (hc : s.csu.commits = true) (hh : s.csu.headEntry.cls = .halt) :
    t.drv.status = .halted (((archView s).x 10#5).setWidth 8) := by
  have hsignal : (csuNext Config.core f s).haltSignal = 0x100#32 ||| (((archView s).x 10#5).setWidth 8).setWidth 32 := by
    rw [csuNext_haltSignal _ _ h.noFlush, hc, hh, ← currentA0_eq]
    exact haltLatch_core s
  have hmarked : haltMarked Config.core (csuNext Config.core f s) = true := by
    rw [haltMarked, hsignal]
    exact haltSignal_marked _
  have hcode := haltSignal_code (((archView s).x 10#5).setWidth 8)
  rw [← hsignal] at hcode
  rw [h.next, ← hcode]
  exact statusAfter_of_marked hmarked (s.drv.cycle + 1)

/-- R113, R116: a tick that commits is one step of the sequential execution, or its halt. -/
theorem Refines.archStep_of_commit (hr : Refines code s) (h : step s = .next t) (hc : t.csu.commit ≠ none) :
    archStep Config.core (archView s) = .next (archView t) ∨
      ∃ code, archStep Config.core (archView s) = .halt code ∧ t.drv.status = .halted code ∧
        (archView t).regs = (archView s).regs ∧ (archView t).mem = (archView s).mem := by
  obtain ⟨hf, f, rfl⟩ | ⟨f, ht, -⟩ := step_flush_or_fetch h
  · exact absurd (by rw [csu_of_flushTick hf]; rfl) hc
  obtain ⟨k, hk⟩ := Option.ne_none_iff_exists'.1 hc
  obtain ⟨hcom, -⟩ := ht.commit_eq_some.1 hk
  have hrunning := (step_cases h).1
  have hadmitted : fetchesStored s s.csu.headEntry.pc = false := by
    rw [← Bool.not_eq_true]
    intro hs
    have := h.symm.trans (step_refused_of_head hrunning ht.noFlush hcom hs)
    cases this
  have hview := hr.archView_of_commit ht hcom
  have hready := ((commits_iff _).1 hcom).2
  have hcls := (hr.access.values.entry _ (hready.trans_ne (by decide))).cls
  rw [archStep, hr.fetch_head ht.noFlush hcom hadmitted]
  generalize instrOf s.csu.rob[s.csu.robHead] = i at hview hcls
  by_cases hi : i = .halt
  · subst hi
    refine .inr ⟨_, rfl, ht.status_of_halt hcom hcls, ?_, ?_⟩
    · rw [hview, effectOf_halt]
    · rw [hview, effectOf_halt]
  · exact .inl ((archExec_eq_effectOf hi _).trans (by rw [hview]))

/-- R105, R190: with the pipeline invariant a step faults at an unknown word only, with the ROB empty. -/
theorem PipelineInv.fault_of_step (hi : PipelineInv s) (hr : s.drv.status = .running) {k : HostFault}
    (h : step s = .fault (.host k)) :
    (∃ e, decodeWord Config.core (fetchWord s) = .error e) ∧ k = .illegalInstruction s.csu.specPc (fetchWord s) ∧
      s.csu.flushReq = false ∧ s.csu.jalrWait = false ∧ s.csu.robCount = 0 := by
  cases hd : decodeWord Config.core (fetchWord s) with
  | ok i =>
    rw [step_known hr hd, exec_eq_tick, tick_fault_iff, hi.tickFaults_known] at h
    obtain ⟨-, k, hk, -⟩ := h
    cases hk
  | error e =>
    rw [step_unknown hr hd, tick_fault_iff] at h
    obtain ⟨-, k', hk, he⟩ := h
    cases he
    cases hf : s.csu.flushReq with
    | true =>
      rw [tickFaults_of_flush hi.pointers hf] at hk
      cases hk
    | false =>
      rw [hi.tickFaults_eq hf, illegalFault] at hk
      split at hk
      next hc =>
        obtain ⟨hatt, hcount⟩ := Bool.and_eq_true_iff.1 hc
        have hcount : s.csu.robCount = 0 := by simpa [Config.core] using hcount
        cases hk
        exact ⟨⟨e, rfl⟩, rfl, rfl, ((attempts_iff _).1 hatt).2.2, hcount⟩
      next => cases hk

/-- R105: such a fault is where the sequential execution meets the unknown word. -/
theorem Refines.archStep_of_fault (hr : Refines code s) (hrun : s.drv.status = .running) {k : HostFault}
    (h : step s = .fault (.host k)) :
    ∃ pc w, k = .illegalInstruction pc w ∧ archStep Config.core (archView s) = .unknown pc w := by
  obtain ⟨⟨e, hd⟩, rfl, hf, hw, hcount⟩ := hr.access.pipeline.fault_of_step hrun h
  have hpc : s.csu.specPc = (archView s).pc := by
    have := hr.path.fetch hf hw
    rw [hcount] at this
    exact this
  have hmem : (archView s).mem = s.mem.bytes := by
    rw [← undoneFrom_zero]
    refine undoneFrom_of_no_record fun i r hrec hc => ?_
    have hocc := (hr.access.performed_of_record hrec hc).occupied hr.access.pipeline
    rw [← hcount]
    exact (occupied_iff hr.access.pipeline.pointers).1 hocc
  have hword : (archView s).mem.read32 (archView s).pc = fetchWord s := by rw [hmem, ← hpc]; rfl
  refine ⟨_, _, rfl, ?_⟩
  rw [archStep, hword, hd, hpc]

end Step

/-- Settles O51: the invariant holds before tick 0 and through every step, and gives what each step does to the
architectural state. -/
theorem machineRefinesSequentialExecution : Obligations.MachineRefinesSequentialExecution := by
  intro image n s hrun hrunning
  have hr := (boot_settled image).refines.of_run n hrun
  exact ⟨fun t ht => ⟨hr.archView_of_noCommit ht, hr.archStep_of_commit ht⟩, fun k => hr.archStep_of_fault hrunning⟩

end Sys2Proof.Machine
end

section
/-! One instruction of the ALU from a quiet machine to its commit: issued, accepted by the RS, dispatched, computed, completed,
each in one tick (log entry 21), whatever is issued behind it. -/

namespace Sys2Proof.Machine

/-! ### A tick with an entry in the ROB -/

theorem run_succ {s t : State} (h : step s = .next t) (k : Nat) :
    Host.Core.run Sys2Proof.core (k + 1) s = Host.Core.run Sys2Proof.core k t := by
  have hs : Sys2Proof.core.step s = .next t := h
  simp only [Host.Core.run, hs]

theorem run_add {s t : State} {k : Nat} (h : Host.Core.run Sys2Proof.core k s = .next t) (n : Nat) :
    Host.Core.run Sys2Proof.core (k + n) s = Host.Core.run Sys2Proof.core n t := by
  induction k generalizing s with
  | zero =>
    cases h
    rw [Nat.zero_add]
  | succ k ih =>
    simp only [Host.Core.run] at h
    split at h
    next u hu => rw [Nat.add_right_comm, run_succ hu, ih h]
    all_goals cases h

/-- R105, R191: with an entry in the ROB a running machine stops for R61 only. -/
theorem PipelineInv.step_plainTick {s : State} (hi : PipelineInv s) (hr : s.drv.status = .running)
    (hf : s.csu.flushReq = false) (hc : s.csu.robCount ≠ 0)
    (ha : s.csu.commits = true → fetchesStored s s.csu.headEntry.pc = false) :
    ∃ f t, step s = .next t ∧ PlainTick f s t := by
  have next : ∃ t, step s = .next t := by
    cases hd : decodeWord Config.core (fetchWord s) with
    | ok i => exact ⟨_, (step_known hr hd).trans (hi.exec_next (refusedFetch_known_eq_none _ ha))⟩
    | error e =>
      exact ⟨_, (step_unknown hr hd).trans
        (tick_next_iff.2 ⟨refusedFetch_unknown_eq_none _ hc ha, hi.tickFaults_unknown hc _, rfl⟩)⟩
  obtain ⟨t, ht⟩ := next
  obtain ⟨hflush, -⟩ | ⟨f, h⟩ := step_flush_or_plain ht
  · exact absurd (hf.symm.trans hflush) (by decide)
  · exact ⟨f, t, ht, h⟩

theorem PlainTick.haltSignal_kept {f : Fetched} {s t : State} (h : PlainTick f s t)
    (hn : s.csu.commits = true → s.csu.headEntry.cls ≠ .halt) : t.csu.haltSignal = s.csu.haltSignal := by
  rw [h.csu, csuNext_haltSignal _ _ h.noFlush, if_neg]
  simpa using hn

/-- R87: with no halt signalled the run goes on, for this hardware has no cap. -/
theorem PlainTick.running {f : Fetched} {s t : State} (h : PlainTick f s t) (hm : haltMarked Config.core t.csu = false) :
    t.drv.status = .running := by
  rw [h.next] at hm ⊢
  exact statusAfter_of_below_cap (n := s.drv.cycle + 1) hm nofun

/-! ### The oldest entry, on its way -/

/-- Entry `q`, allocated as `e`, is the head of a running machine, and nothing has committed since its issue. -/
structure InFlight (q : RobIdx) (e : RobEntry) (s : State) : Prop where
  inv : PipelineInv s
  running : s.drv.status = .running
  notMarked : haltMarked Config.core s.csu = false
  noFlush : s.csu.flushReq = false
  noCommit : s.csu.commit = none
  head : s.csu.robHead = q
  occupied : (s.csu.rob[q]).state ≠ .empty
  cls : (s.csu.rob[q]).cls = e.cls
  pc : (s.csu.rob[q]).pc = e.pc
  hasRd : (s.csu.rob[q]).hasRd = e.hasRd
  rd : (s.csu.rob[q]).rd = e.rd
  specNext : (s.csu.rob[q]).specNext = e.specNext
  unstored : ∀ k < 4, (e.pc + BitVec.ofNat 32 k).toNat ∉ s.guard.stored

namespace InFlight

variable {q : RobIdx} {e : RobEntry} {s t : State} {f : Fetched}

theorem robCount_ne_zero (h : InFlight q e s) : s.csu.robCount ≠ 0 := by
  have := (occupied_iff h.inv.pointers).1 h.occupied
  omega

theorem admitted (h : InFlight q e s) : fetchesStored s s.csu.headEntry.pc = false := by
  have hpc : s.csu.headEntry.pc = e.pc := by
    rw [← h.pc, Csu.headEntry]
    simp only [h.head]
  rw [hpc, ← Bool.not_eq_true, fetchesStored_iff]
  rintro ⟨k, hk, hs | ⟨c, hc, -⟩⟩
  · exact h.unstored k hk hs
  · exact absurd (h.noCommit.symm.trans hc) (by simp)

theorem step_plainTick (h : InFlight q e s) : ∃ f t, step s = .next t ∧ PlainTick f s t :=
  h.inv.step_plainTick h.running h.noFlush h.robCount_ne_zero fun _ => h.admitted

theorem not_commits (h : InFlight q e s) (hn : (s.csu.rob[q]).state ≠ .readyToCommit) : s.csu.commits = false := by
  rw [← Bool.not_eq_true, commits_iff]
  rintro ⟨-, hready⟩
  simp only [h.head] at hready
  exact hn hready

/-- Until it is completed the entry stays the head. -/
theorem of_plainTick (h : InFlight q e s) (ht : PlainTick f s t) (hn : (s.csu.rob[q]).state ≠ .readyToCommit) :
    InFlight q e t := by
  have hc := h.not_commits hn
  have hs : Stays s q := ⟨h.occupied, fun hcom => absurd (hcom.symm.trans hc) (by decide)⟩
  obtain ⟨hocc, -, hcls, hpc, hhas, hrd, hspec⟩ := ht.rob_kept hs
  have hmark : haltMarked Config.core t.csu = false := by
    rw [haltMarked, ht.haltSignal_kept fun hcom => absurd (hcom.symm.trans hc) (by decide)]
    exact h.notMarked
  exact
    { inv := ht.pipelineInv h.inv
      running := ht.running hmark
      notMarked := hmark
      noFlush := by rw [ht.flushReq, Csu.flushNow, hc]; rfl
      noCommit := by rw [ht.commit, hc]; rfl
      head := by rw [ht.robHead, hc]; exact h.head
      occupied := hocc
      cls := hcls.trans h.cls
      pc := hpc.trans h.pc
      hasRd := hhas.trans h.hasRd
      rd := hrd.trans h.rd
      specNext := hspec.trans h.specNext
      unstored := fun k hk hmem => by
        rw [ht.guard, mem_guardNext_stored] at hmem
        obtain hmem | ⟨c, hcommit, -⟩ := hmem
        · exact h.unstored k hk hmem
        · exact absurd (h.noCommit.symm.trans hcommit) (by simp) }

end InFlight

/-! ### Issue by a quiet machine -/

theorem snoop_of_resolved (s : State) {o : Operand} (h : o.resolved = true) : s.snoop o = o := by
  cases o with
  | none | val => rfl
  | tag => cases h

namespace Quiet

variable {s : State}

/-- R106: an empty machine has room. -/
theorem canIssue (h : Quiet s) (u : IssueUnit) : CanIssue s u := by
  have hcom : s.csu.commits = false := by simp [Csu.commits, h.robCount]
  have hfree : 1 ≤ unitFree Config.core s u := by
    cases u with
    | rs =>
      rw [unitFree, countP_slots, List.countP_eq_length.2 fun j _ => decide_eq_true (h.rsEmpty j), List.length_finRange]
      decide
    | lsq =>
      rw [unitFree, lsqFree, h.lsqCount]
      decide
  exact
    { inv := h.drained.pipelineInv
      noFlush := h.noFlush
      noFlushNow := by rw [Csu.flushNow, hcom]; rfl
      noWait := h.noWait
      room := by simp [Machine.canIssue, h.robCount, acceptPending, h.noIssue, hfree]
      admitted := fun hc => absurd (hc.symm.trans hcom) (by decide) }

theorem archView_x (h : Quiet s) (r : RegIdx) : (archView s).x r = s.rf.read r := by
  rw [Machine.archView_x, RegFile.read, RegFile.read, rfNext_value, rfValueNext_of_noCommit h.noCommit]

/-- R109 case 4: every operand is the register's value. -/
theorem resolveSrc (h : Quiet s) (src : Option RegIdx) :
    (resolveSrc s src).resolved = true ∧ (resolveSrc s src).value = (archView s).src src := by
  cases src with
  | none => exact ⟨rfl, rfl⟩
  | some r =>
    rw [ArchState.src, h.archView_x, Machine.resolveSrc]
    by_cases hr : r = 0#5
    · simp [resolveReg, hr, Operand.resolved, Operand.value, RegFile.read]
    · rw [resolveReg_of_not_issue hr (by simp [h.noIssue]), resolveFromRf, h.notBusy r]
      exact ⟨rfl, rfl⟩

end Quiet

/-- R119: the record of an instruction's entry on its way to the ALU. -/
def dispatchFor (i : Instr) (a : ArchState) (q : RobIdx) : DispatchLatch :=
  { cls := i.cls
    a := a.src (issueReqOf i).src1
    b := a.src (issueReqOf i).src2
    imm := (issueReqOf i).imm
    shamt := (issueReqOf i).shamt
    pc := a.pc
    rob := q }

/-- The record of the entry is in the RS's slot `j`, Ready, and no other slot is occupied. -/
structure OnlySlot (d : DispatchLatch) (j : RsIdx) (s : State) : Prop where
  ready : (s.rs.slot[j]).state = .ready
  record : rsDispatchOf s.rs.slot[j] = d
  others : ∀ k : RsIdx, k ≠ j → (s.rs.slot[k]).state = .empty

/-- The record of the entry is in the issue latch, on its way to an empty RS. -/
structure OnlyIssue (d : DispatchLatch) (u : IssueLatch) (s : State) : Prop where
  issue : s.csu.issue = some u
  unit : u.unit = .rs
  op1 : u.op1.resolved = true
  op2 : u.op2.resolved = true
  record : rsDispatchOf (rsAccepted s u) = d
  empty : ∀ j : RsIdx, (s.rs.slot[j]).state = .empty

/-- R103 to R110: a quiet machine issues the instruction, its operands read from the RF. -/
theorem Quiet.issues {s : State} (h : Quiet s) {i : Instr} (hu : i.cls.unit = .rs) :
    ∃ t u, exec i s = .next t ∧
      InFlight s.csu.robTail (allocated Config.core s.csu.specPc (issueReqOf i)) t ∧
      OnlyIssue (dispatchFor i (archView s) s.csu.robTail) u t ∧ (t.csu.rob[s.csu.robTail]).state = .issued := by
  have hc := h.canIssue i.cls.unit
  have hr := hc.issuing
  have hexec := hc.inv.exec_next (refusedFetch_known_eq_none (issueReqOf i) hc.admitted)
  have ht := exec_plainTick hexec hc.noFlush
  have hentry := ht.rob_tail_of_issuing hr
  have hcom : s.csu.commits = false := by simp [Csu.commits, h.robCount]
  obtain ⟨h1, hv1⟩ := h.resolveSrc (issueReqOf i).src1
  obtain ⟨h2, hv2⟩ := h.resolveSrc (issueReqOf i).src2
  have hmark : haltMarked Config.core (afterSync Config.core (unitsNext Config.core (.known (issueReqOf i)) s)).csu =
      false := by
    rw [haltMarked, ht.haltSignal_kept fun hcom' => absurd (hcom'.symm.trans hcom) (by decide)]
    exact h.notMarked
  refine ⟨_, issueLatchOf Config.core s (issueReqOf i), hexec, ?inFlight, ?issue, by rw [hentry]; rfl⟩
  case inFlight =>
    exact
      { inv := ht.pipelineInv hc.inv
        running := ht.running hmark
        notMarked := hmark
        noFlush := by rw [ht.flushReq, Csu.flushNow, hcom]; rfl
        noCommit := by rw [ht.commit, hcom]; rfl
        head := by rw [ht.robHead, hcom]; exact h.robPointers.symm
        occupied := by rw [hentry]; exact nofun
        cls := by rw [hentry]
        pc := by rw [hentry]
        hasRd := by rw [hentry]
        rd := by rw [hentry]
        specNext := by rw [hentry]
        unstored := fun k hk hmem => by
          rw [ht.guard, mem_guardNext_stored] at hmem
          obtain hmem | ⟨c, hcommit, -⟩ := hmem
          · exact absurd ((fetchesStored_iff.2 ⟨k, hk, .inl hmem⟩).symm.trans h.admitted) (by decide)
          · exact absurd (h.noCommit.symm.trans hcommit) (by simp) }
  case issue =>
    exact
      { issue := ht.issue_eq_some.2 ⟨_, hr, rfl⟩
        unit := (issueReqOf_unit i).trans hu
        op1 := h1
        op2 := h2
        record := by
          simp only [rsAccepted, rsDispatchOf, issueLatchOf, snoop_of_resolved _ h1, snoop_of_resolved _ h2, hv1, hv2,
            issueReqOf_cls, h.pcs, dispatchFor]
          rfl
        empty := fun j => ht.slot_stays_empty (h.rsEmpty j) (by simp [rsAccepting, h.noIssue]) }

/-! ### From the issue latch to the commit -/

namespace PlainTick

variable {f : Fetched} {s t : State} {q : RobIdx} {d : DispatchLatch}

/-- R121: the RS accepts the record into its lowest slot, Ready. -/
theorem onlySlot_of_onlyIssue (h : PlainTick f s t) {u : IssueLatch} (hu : OnlyIssue d u s) : ∃ j, OnlySlot d j t := by
  have hacc : rsAccepting s = some u := rsAccepting_eq_some.2 ⟨hu.issue, hu.unit⟩
  obtain ⟨j, hj⟩ := noFault_rsAccept h.noFault h.noFlush hacc
  have hslot : t.rs.slot[j] = rsAccepted s u := by
    have hm := h.slot j
    generalize t.rs.slot[j] = e at hm
    cases hm with
    | select _ he => exact absurd ((hu.empty j).symm.trans he) (by decide)
    | accept v hv => rw [Option.some.inj (hacc.symm.trans hv)]
    | snoop he => exact absurd ((hu.empty j).symm.trans he) (by decide)
    | keep _ _ ha => exact absurd hj (ha u hacc)
  refine ⟨j, ?_, ?_, fun k hk => ?_⟩
  · rw [hslot, rsAccepted, snoop_of_resolved _ hu.op1, snoop_of_resolved _ hu.op2]
    exact slotStateOf_eq_ready.2 ⟨hu.op1, hu.op2⟩
  · rw [hslot, hu.record]
  · exact h.slot_stays_empty (hu.empty k) fun _ _ hk' => hk (Option.some.inj (hk'.symm.trans hj))

/-- R119: the only Ready slot is dispatched. -/
theorem dispatch_of_onlySlot (h : PlainTick f s t) {j : RsIdx} (hj : OnlySlot d j s) : t.rs.dispatch = some d := by
  have hsel : rsSelect s.rs = some j := by
    cases hs : rsSelect s.rs with
    | none =>
      have := firstIdx_eq_none.1 hs j
      rw [hj.ready] at this
      cases this
    | some k =>
      by_contra hk
      have hk : k ≠ j := fun e => hk (by rw [e])
      exact absurd ((hj.others k hk).symm.trans (rsSelect_ready hs)) (by decide)
  rw [h.dispatch, hsel, ← hj.record]
  rfl

/-- R132: the ALU computes the dispatched record. -/
theorem aluOut_of_dispatch (h : PlainTick f s t) (hd : s.rs.dispatch = some d) {r : AluResult}
    (hr : aluResult d.cls d.a d.b d.imm d.shamt d.pc = some r) :
    t.alu.out = some { rob := d.rob, value := r.value, nextPc := r.nextPc } := by
  rw [h.alu]
  simp only [aluNext, h.noFlush, hd, aluNextOut, hr, Bool.false_eq_true, if_false]

end PlainTick

/-- R133: what the ALU computes for the record of an instruction. -/
theorem aluResult_dispatchFor {i : Instr} (hu : i.cls.unit = .rs) (a : ArchState) (q : RobIdx) :
    aluResult (dispatchFor i a q).cls (dispatchFor i a q).a (dispatchFor i a q).b (dispatchFor i a q).imm
      (dispatchFor i a q).shamt (dispatchFor i a q).pc = some (resultOf i a) := by
  obtain ⟨r, hr⟩ := Option.isSome_iff_exists.1 ((aluResult_isSome i.cls (a.src (issueReqOf i).src1)
    (a.src (issueReqOf i).src2) (issueReqOf i).imm (issueReqOf i).shamt a.pc).2 hu)
  rw [resultOf_of_rs hr]
  exact hr

namespace PipelineInv

variable {s : State} {d : DispatchLatch}

theorem executing_of_onlySlot (hi : PipelineInv s) {j : RsIdx} (hj : OnlySlot d j s) :
    (s.csu.rob[d.rob]).state = .executing := by
  rw [← hj.record]
  exact hi.slot_executing (hj.ready.trans_ne (by decide))

theorem executing_of_dispatch (hi : PipelineInv s) (hd : s.rs.dispatch = some d) :
    (s.csu.rob[d.rob]).state = .executing :=
  ((hi.aluEntries d.rob).1 (by simp [aluHolds, hd])).1

theorem executing_of_aluOut (hi : PipelineInv s) {o : AluOut} (ho : s.alu.out = some o) :
    (s.csu.rob[o.rob]).state = .executing :=
  ((hi.aluEntries o.rob).1 (aluOut_mem ho)).1

end PipelineInv

/-- The head entry is completed with the result `r`, and nothing has committed since its issue. -/
structure Completed (q : RobIdx) (e : RobEntry) (r : AluResult) (s : State) : Prop extends InFlight q e s where
  ready : (s.csu.rob[q]).state = .readyToCommit
  value : (s.csu.rob[q]).value = r.value
  resolvedPc : (s.csu.rob[q]).resolvedPc = r.nextPc
  mismatch : (s.csu.rob[q]).mismatch = (e.cls != .jalr && r.nextPc != e.specNext)

/-- R101: the ALU's broadcast completes the entry. -/
theorem InFlight.completed {q : RobIdx} {e : RobEntry} {r : AluResult} {s t : State} {f : Fetched}
    (h : InFlight q e s) (ht : PlainTick f s t)
    (ho : s.alu.out = some { rob := q, value := r.value, nextPc := r.nextPc }) : Completed q e r t := by
  have hentry := ht.rob_of_aluOut ho
  refine { h.of_plainTick ht ((h.inv.executing_of_aluOut ho).trans_ne (by decide)) with
    ready := ?_, value := ?_, resolvedPc := ?_, mismatch := ?_ }
  · rw [hentry]; rfl
  · rw [hentry]; rfl
  · rw [hentry]; rfl
  · rw [hentry, ← h.cls, ← h.specNext]; rfl

/-- Log entry 21: four ticks after its issue by a quiet machine an instruction of the ALU is completed. -/
theorem Quiet.completes {s : State} (h : Quiet s) {i : Instr} (hu : i.cls.unit = .rs) :
    ∃ t u, exec i s = .next t ∧ Host.Core.run Sys2Proof.core 4 t = .next u ∧
      Completed s.csu.robTail (allocated Config.core s.csu.specPc (issueReqOf i)) (resultOf i (archView s)) u := by
  obtain ⟨t, u, hexec, h0, hissue, hissued⟩ := h.issues hu
  obtain ⟨f1, t1, hs1, ht1⟩ := h0.step_plainTick
  have h1 := h0.of_plainTick ht1 (hissued.trans_ne (by decide))
  obtain ⟨j, hslot⟩ := ht1.onlySlot_of_onlyIssue hissue
  obtain ⟨f2, t2, hs2, ht2⟩ := h1.step_plainTick
  have h2 := h1.of_plainTick ht2 ((h1.inv.executing_of_onlySlot hslot).trans_ne (by decide))
  have hdispatch := ht2.dispatch_of_onlySlot hslot
  obtain ⟨f3, t3, hs3, ht3⟩ := h2.step_plainTick
  have h3 := h2.of_plainTick ht3 ((h2.inv.executing_of_dispatch hdispatch).trans_ne (by decide))
  have hout := ht3.aluOut_of_dispatch hdispatch (aluResult_dispatchFor hu _ _)
  obtain ⟨f4, t4, hs4, ht4⟩ := h3.step_plainTick
  refine ⟨t, t4, hexec, ?_, h3.completed ht4 hout⟩
  rw [run_succ hs1, run_succ hs2, run_succ hs3, run_succ hs4]
  rfl

/-- R99: the completed head commits, and a flush is requested exactly for a mismatch. -/
theorem Completed.commits {q : RobIdx} {e : RobEntry} {r : AluResult} {s : State} (h : Completed q e r s)
    (hn : e.cls ≠ .halt) :
    ∃ f t, step s = .next t ∧ PlainTick f s t ∧ t.drv.status = .running ∧ t.csu.archPc = r.nextPc ∧
      t.csu.commit = some { rob := q, hasRd := e.hasRd, rd := e.rd, value := r.value } ∧
      t.csu.flushReq = (e.cls != .jalr && r.nextPc != e.specNext) := by
  obtain ⟨f, t, hs, ht⟩ := h.step_plainTick
  have hhead : s.csu.headEntry = s.csu.rob[q] := by
    rw [Csu.headEntry]
    simp only [h.head]
  have hc : s.csu.commits = true := by
    rw [Csu.commits, hhead, h.ready, decide_eq_true (Nat.pos_of_ne_zero h.robCount_ne_zero)]
    rfl
  have hcls : s.csu.headEntry.cls ≠ .halt := by
    rw [hhead, h.cls]
    exact hn
  refine ⟨f, t, hs, ht, ht.running ?_, ?_, ?_, ?_⟩
  · rw [haltMarked, ht.haltSignal_kept fun _ => hcls]
    exact h.notMarked
  · rw [ht.archPc, if_pos hc, hhead, h.resolvedPc]
  · rw [ht.commit, if_pos hc, Csu.commitLatch, hhead, h.hasRd, h.rd, h.value, h.head]
  · rw [ht.flushReq, Csu.flushNow, hc, hhead, h.mismatch]
    rfl

/-- R85, R99: a flush tick fetches from the actual PC. -/
theorem PipelineInv.step_flush {s : State} (hi : PipelineInv s) (hr : s.drv.status = .running)
    (hf : s.csu.flushReq = true) :
    ∃ t, step s = .next t ∧ t.csu.specPc = s.csu.archPc ∧ t.csu.robCount = 0 ∧ t.csu.flushReq = false := by
  have flushed (f : Fetched) : tick Config.core f s = .next (afterSync Config.core (unitsNext Config.core f s)) :=
    tick_next_iff.2 ⟨refusedFetch_of_flush hf f, tickFaults_of_flush hi.pointers hf f, rfl⟩
  have next : ∃ f, step s = .next (afterSync Config.core (unitsNext Config.core f s)) := by
    cases hd : decodeWord Config.core (fetchWord s) with
    | ok i => exact ⟨_, (step_known hr hd).trans (exec_of_flush hi.pointers hf i)⟩
    | error e => exact ⟨_, (step_unknown hr hd).trans (flushed _)⟩
  obtain ⟨f, hs⟩ := next
  refine ⟨_, hs, ?_⟩
  rw [csu_of_flushTick hf]
  exact ⟨rfl, rfl, rfl⟩

/-- R99, R115: five ticks after its issue by a quiet machine an instruction of the ALU commits, and its resolved next PC is
fetched from if it was not guessed. -/
theorem Quiet.flushesTo {s : State} (h : Quiet s) {i : Instr} (hu : i.cls.unit = .rs) (hn : i ≠ .halt) :
    FlushesTo (exec i s) 5
      (i.cls != .jalr && (resultOf i (archView s)).nextPc != guessedNext i s.csu.specPc)
      (resultOf i (archView s)).nextPc := by
  obtain ⟨t, u, hexec, hrun, hdone⟩ := h.completes hu
  obtain ⟨f, v, hs, hv, hstatus, hpc, -, hflush⟩ :=
    hdone.commits (by rw [allocated, issueReqOf_cls]; exact cls_ne_halt hn)
  rw [allocated, issueReqOf_cls, specNextOf_guess] at hflush
  refine ⟨t, v, hexec, (run_add hrun 1).trans (run_succ hs 0), hflush, fun hm => ?_⟩
  obtain ⟨w, hw, hspec, hcount, hno⟩ := (hv.pipelineInv hdone.inv).step_flush hstatus (hflush.trans hm)
  exact ⟨w, hw, hspec.trans hpc, hcount, hno⟩

/-- R164: a conditional branch. -/
theorem Quiet.flushesTo_branch {s : State} (h : Quiet s) {i : Instr} {taken : Bool} {off : BitVec 13}
    (hu : i.cls.unit = .rs) (hj : i.cls ≠ .jalr) (hn : i ≠ .halt)
    (hguess : guessedNext i s.csu.specPc = s.csu.specPc + immediateB off)
    (hnext : (resultOf i (archView s)).nextPc = s.branchTarget taken off) :
    FlushesTo (exec i s) 5 (decide (s.branchTarget taken off ≠ s.csu.specPc + immediateB off))
      (s.branchTarget taken off) := by
  have flushes := h.flushesTo hu hn
  rw [hguess, hnext, bne_iff_ne.2 hj, Bool.true_and] at flushes
  rw [decide_not, ← beq_eq_decide]
  exact flushes

/-- R164: the next PC that the ALU computes for a branch from its condition. -/
theorem Quiet.branch_nextPc {s : State} (h : Quiet s) (taken : Word → Word → Bool) (rs1 rs2 : RegIdx) (off : BitVec 13) :
    (branchResult (taken ((archView s).x rs1) ((archView s).x rs2)) (immediateB off) (archView s).pc).nextPc =
      s.branchTarget (taken (s.rf.read rs1) (s.rf.read rs2)) off := by
  rw [h.archView_x, h.archView_x, State.branchTarget, h.pcs]
  rfl

/-- Settles O20: a branch computes its next PC from the RF's values, and commits in the fifth tick. -/
theorem mispredictedBranchesFlush : Obligations.MispredictedBranchesFlush := by
  intro s rs1 rs2 off h
  refine ⟨?beq, ?bne, ?blt, ?bge, ?bltu, ?bgeu⟩
  case beq => exact h.flushesTo_branch rfl nofun nofun rfl (h.branch_nextPc condBeq rs1 rs2 off)
  case bne =>
    refine h.flushesTo_branch rfl nofun nofun rfl ((h.branch_nextPc condBne rs1 rs2 off).trans ?_)
    rw [condBne, decide_not, ← beq_eq_decide]
    rfl
  case blt => exact h.flushesTo_branch rfl nofun nofun rfl (h.branch_nextPc condBlt rs1 rs2 off)
  case bge => exact h.flushesTo_branch rfl nofun nofun rfl (h.branch_nextPc condBge rs1 rs2 off)
  case bltu => exact h.flushesTo_branch rfl nofun nofun rfl (h.branch_nextPc condBltu rs1 rs2 off)
  case bgeu => exact h.flushesTo_branch rfl nofun nofun rfl (h.branch_nextPc condBgeu rs1 rs2 off)

end Sys2Proof.Machine
end

section
/-! The Reservation Station in a plain tick (R117 to R121): the slot it dispatches, the slots it snoops, and the slot
it accepts into. -/

namespace Sys2Proof.Machine

/-! ### The lowest slot of a kind -/

theorem firstIdx_eq_some {n : Nat} {p : Fin n → Bool} {i : Fin n} :
    firstIdx p = some i ↔ p i = true ∧ ∀ j : Fin n, j < i → p j = false := by
  refine ⟨firstIdx_spec, fun ⟨hi, hbelow⟩ => ?_⟩
  cases h : firstIdx p with
  | none => exact absurd (hi.symm.trans (firstIdx_eq_none.1 h i)) (by decide)
  | some k =>
    obtain ⟨hk, hbelow'⟩ := firstIdx_spec h
    obtain hlt | heq | hgt := lt_trichotomy k i
    · exact absurd (hk.symm.trans (hbelow k hlt)) (by decide)
    · rw [heq]
    · exact absurd (hi.symm.trans (hbelow' i hgt)) (by decide)

/-- R119: the slot selected is the lowest Ready one. -/
theorem rsSelect_eq_some {rs : ResStation} {j : RsIdx} :
    rsSelect rs = some j ↔ (rs.slot[j]).state = .ready ∧ ∀ k : RsIdx, k < j → (rs.slot[k]).state ≠ .ready := by
  simp [rsSelect, firstIdx_eq_some]

theorem rsSelect_eq_none {rs : ResStation} : rsSelect rs = none ↔ ∀ j : RsIdx, (rs.slot[j]).state ≠ .ready := by
  simp [rsSelect, firstIdx_eq_none]

/-- R121: the slot accepted into is the lowest Empty one. -/
theorem rsFirstEmpty_eq_some {rs : ResStation} {j : RsIdx} :
    rsFirstEmpty rs = some j ↔ (rs.slot[j]).state = .empty ∧ ∀ k : RsIdx, k < j → (rs.slot[k]).state ≠ .empty := by
  simp [rsFirstEmpty, firstIdx_eq_some]

/-! ### Operands (R118, R120) -/

theorem resolved_iff {o : Operand} : o.resolved = true ↔ ∀ q, o ≠ .tag q := by
  cases o <;> simp [Operand.resolved]

/-- R119: the value of a resolved operand, 0 for one not used. -/
theorem value_of_resolved {o : Operand} (h : o.resolved = true) : o = .val o.value ∨ (o = .none ∧ o.value = 0#32) := by
  cases o with
  | none => exact .inr ⟨rfl, rfl⟩
  | val => exact .inl rfl
  | tag => cases h

/-- R118: a record waits exactly if an operand of it does. -/
theorem slotStateOf_eq_awaitingOperands {o1 o2 : Operand} :
    slotStateOf o1 o2 = .awaitingOperands ↔ (∃ q, o1 = .tag q) ∨ ∃ q, o2 = .tag q := by
  cases o1 <;> cases o2 <;> simp [slotStateOf, Operand.resolved]

/-- R120: an operand that waits for entry `q` after the snoop. -/
theorem snoop_tag_of_broadcast {s : State} {q : RobIdx} {v : Word} (h : s.broadcast q = some v) :
    s.snoop (.tag q) = .val v := by
  simp [State.snoop, h]

theorem broadcast_of_aluOut {s : State} {o : AluOut} (ho : s.alu.out = some o) : s.broadcast o.rob = some o.value := by
  rw [State.broadcast, aluBroadcast_eq_some.2 ⟨o, ho, rfl, rfl⟩]

theorem broadcast_of_memOut {s : State} {o : MemOut} (ho : s.mem.out = some o)
    (ha : ∀ a, s.alu.out = some a → a.rob ≠ o.rob) : s.broadcast o.rob = some o.value := by
  rw [State.broadcast, aluBroadcast_eq_none ha, memBroadcast_eq_some.2 ⟨o, ho, rfl, rfl⟩]

/-- R120: an operand whose producer does not broadcast is left as it is. -/
theorem snoop_of_no_broadcast {s : State} {x : Operand} (ha : ∀ o, s.alu.out = some o → x ≠ .tag o.rob)
    (hm : ∀ o, s.mem.out = some o → x ≠ .tag o.rob) : s.snoop x = x := by
  cases x with
  | none | val => rfl
  | tag q =>
    have hb : s.broadcast q = none :=
      broadcast_eq_none.2 ⟨fun o ho e => ha o ho (by rw [e]), fun o ho e => hm o ho (by rw [e])⟩
    simp [State.snoop, hb]

/-! ### The slots and the dispatch latch after the tick -/

namespace PlainTick

variable {f : Fetched} {s t : State} {j : RsIdx}

/-- R119: the selected slot is freed. -/
theorem slot_of_select (h : PlainTick f s t) (hj : rsSelect s.rs = some j) : t.rs.slot[j] = RsSlot.empty := by
  have hready := rsSelect_ready hj
  have hm := h.slot j
  generalize t.rs.slot[j] = e at hm
  cases hm with
  | select => rfl
  | accept _ _ _ he | snoop he => exact absurd (hready.symm.trans he) (by simp)
  | keep _ hs => exact absurd hj hs

/-- R120: a waiting slot is snooped. -/
theorem slot_of_awaiting (h : PlainTick f s t) (hj : (s.rs.slot[j]).state = .awaitingOperands) :
    t.rs.slot[j] = rsSnooped s s.rs.slot[j] := by
  have hm := h.slot j
  generalize t.rs.slot[j] = e at hm
  cases hm with
  | select _ he | accept _ _ _ he => exact absurd (hj.symm.trans he) (by simp)
  | snoop => rfl
  | keep he => exact absurd hj he

/-- R121: the record accepted is in the lowest Empty slot. -/
theorem slot_of_accept (h : PlainTick f s t) {u : IssueLatch} (hu : rsAccepting s = some u)
    (hj : rsFirstEmpty s.rs = some j) : t.rs.slot[j] = rsAccepted s u := by
  have hempty := rsFirstEmpty_empty hj
  have hm := h.slot j
  generalize t.rs.slot[j] = e at hm
  cases hm with
  | select _ he | snoop he => exact absurd (hempty.symm.trans he) (by simp)
  | accept v hv => rw [Option.some.inj (hu.symm.trans hv)]
  | keep _ _ ha => exact absurd hj (ha u hu)

/-- R117: a slot that does not wait, and is neither selected nor accepted into, is unchanged. -/
theorem slot_kept (h : PlainTick f s t) (hw : (s.rs.slot[j]).state ≠ .awaitingOperands)
    (hs : rsSelect s.rs ≠ some j) (ha : ∀ u, rsAccepting s = some u → rsFirstEmpty s.rs ≠ some j) :
    t.rs.slot[j] = s.rs.slot[j] := by
  have hm := h.slot j
  generalize t.rs.slot[j] = e at hm
  cases hm with
  | select hj => exact absurd hj hs
  | accept u hu hj => exact absurd hj (ha u hu)
  | snoop he => exact absurd he hw
  | keep => rfl

end PlainTick

/-- Settles O33: the lowest Ready slot is the one selected, and with no fault raised its operands have values. -/
theorem rsDispatchesTheLowestReadySlot : Obligations.RsDispatchesTheLowestReadySlot := by
  intro i s t h hf
  have ht := exec_plainTick h hf
  refine ⟨fun j hj hbelow => ?lowest, fun hnone => ?none, fun j k hkj hk hj => ?later⟩
  case lowest =>
    have hsel : rsSelect s.rs = some j := rsSelect_eq_some.2 ⟨hj, hbelow⟩
    obtain ⟨h1, h2⟩ := noFault_rsSelect ht.noFault hf hsel
    refine ⟨by rw [ht.slot_of_select hsel]; rfl, _, _, value_of_resolved h1, value_of_resolved h2, ?_⟩
    rw [ht.dispatch, hsel]
    rfl
  case none => rw [ht.dispatch, rsSelect_eq_none.2 hnone, Option.map_none]
  case later =>
    refine ht.slot_kept (by rw [hj]; decide) (fun hsel => (rsSelect_eq_some.1 hsel).2 k hkj hk) fun _ _ he => ?_
    exact absurd (hj.symm.trans (rsFirstEmpty_empty he)) (by decide)

/-- Settles O34: the slot is snooped, and its state is recomputed from what the snoop leaves. -/
theorem snoopFillsWaitingOperands : Obligations.SnoopFillsWaitingOperands := by
  intro i s t h hf j hj
  rw [(exec_plainTick h hf).slot_of_awaiting hj]
  refine ⟨fun before after hop => ?operand, ?ready, slotStateOf_eq_awaitingOperands, rfl, rfl, rfl, rfl, rfl⟩
  case operand =>
    have hafter : after = s.snoop before := by obtain ⟨rfl, rfl⟩ | ⟨rfl, rfl⟩ := hop <;> rfl
    rw [hafter]
    refine ⟨fun o ho hb => ?_, fun ha => ⟨fun o ho hb => ?_, snoop_of_no_broadcast ha⟩⟩
    · rw [hb, snoop_tag_of_broadcast (broadcast_of_aluOut ho)]
    · rw [hb, snoop_tag_of_broadcast (broadcast_of_memOut ho fun a hao e => ha a hao (by rw [hb, e]))]
  case ready => exact slotStateOf_eq_ready.trans (and_congr resolved_iff resolved_iff)

/-- Settles O35: no fault is raised, so there is a slot for the record, and that is the only Empty slot written. -/
theorem rsAcceptsIntoTheLowestEmptySlot : Obligations.RsAcceptsIntoTheLowestEmptySlot := by
  intro i s t h hf
  have ht := exec_plainTick h hf
  refine ⟨fun u hu hunit => ?accepted, fun j hj hother => ?other⟩
  case accepted =>
    have hacc : rsAccepting s = some u := rsAccepting_eq_some.2 ⟨hu, hunit⟩
    obtain ⟨j, hfirst⟩ := noFault_rsAccept ht.noFault hf hacc
    obtain ⟨hempty, hbelow⟩ := rsFirstEmpty_eq_some.1 hfirst
    exact ⟨j, hempty, hbelow, ht.slot_of_accept hacc hfirst⟩
  case other =>
    have notReady : rsSelect s.rs ≠ some j := fun hsel => absurd (hj.symm.trans (rsSelect_ready hsel)) (by decide)
    refine ht.slot_kept (by rw [hj]; decide) notReady fun u hu hfirst => ?_
    obtain ⟨hissue, hunit⟩ := rsAccepting_eq_some.1 hu
    obtain ⟨k, hk, hempty⟩ | hnone := hother
    · exact (rsFirstEmpty_eq_some.1 hfirst).2 k hk hempty
    · exact hnone u hissue hunit

end Sys2Proof.Machine
end

section
/-! The Load/Store Queue in a plain tick (R124 to R131): the request its head forms, the entry it appends, the entries it
snoops, and its count with any LSQ_SIZE. No invariant is assumed: what the accept needs of the tail entry, a tick without
faults has checked (R81). -/

namespace Sys2Proof.Machine

/-! ### The request of an entry (R127) -/

theorem loadsSigned_eq (c : OpClass) : loadsSigned c = decide (c = .lb ∨ c = .lh) := by
  cases c <;> rfl

/-- R127: a store's data is the low bytes of its operand, and a load's is 0. -/
theorem requestData_toNat {c : OpClass} {w : Width} (hw : accessWidth c = some w) (v : Word) :
    (requestData c v).toNat = if isStore c then v.toNat % 2 ^ (8 * w.bytes) else 0 := by
  have hv := v.isLt
  cases hs : isStore c with
  | false => simp [requestData, hs]
  | true =>
    simp only [requestData, hs, hw, if_true]
    cases w <;> simp only [Width.bytes, BitVec.toNat_setWidth] <;> omega

/-! ### What the LSQ accepts (R128) -/

theorem lsqAccepting_eq_none {s : State} :
    lsqAccepting s = none ↔ ∀ u, s.csu.issue = some u → u.unit ≠ .lsq := by
  simp only [Option.eq_none_iff_forall_ne_some, ne_eq, lsqAccepting_eq_some, not_and]

/-- R81: an accept finds no other part of the step staging the tail entry. -/
theorem lsqTailStagedTwice_eq_false {s : State} :
    lsqTailStagedTwice s = false ↔
      (lsqDispatches s = true → s.lsq.head ≠ s.lsq.tail) ∧ (s.lsq.entry[s.lsq.tail]).state ≠ .awaitingOperands := by
  simp [lsqTailStagedTwice]

/-! ### The entries after the tick (R124) -/

theorem lsqEntryNext_of_dispatch {s : State} (hd : lsqDispatches s = true) :
    lsqEntryNext s s.lsq.head = LsqEntry.empty := by
  simp [lsqEntryNext, hd]

theorem lsqEntryNext_of_accept {s : State} (hf : s.csu.flushReq = false) {u : IssueLatch}
    (hu : lsqAccepting s = some u) (hhead : lsqDispatches s = true → s.lsq.tail ≠ s.lsq.head) :
    lsqEntryNext s s.lsq.tail = lsqAccepted s u := by
  have hnot : (lsqDispatches s && s.lsq.tail == s.lsq.head) = false := by simpa using hhead
  simp [lsqEntryNext, hf, hnot, hu]

/-- R125: an entry neither dispatched nor accepted into. -/
theorem lsqEntryNext_of_not_staged {s : State} {j : LsqIdx} (hf : s.csu.flushReq = false)
    (hd : lsqDispatches s = true → j ≠ s.lsq.head) (ha : ∀ u, lsqAccepting s = some u → j ≠ s.lsq.tail) :
    lsqEntryNext s j = lsqWaiting s s.lsq.entry[j] := by
  have hnot : (lsqDispatches s && j == s.lsq.head) = false := by simpa using hd
  cases hu : lsqAccepting s with
  | none => simp [lsqEntryNext, hf, hnot, hu]
  | some u => simp [lsqEntryNext, hf, hnot, hu, ha u hu]

namespace PlainTick

variable {f : Fetched} {s t : State}

/-- R126: the entry sent to Memory is freed. -/
theorem lsqEntry_of_dispatch (h : PlainTick f s t) (hd : lsqDispatches s = true) :
    t.lsq.entry[s.lsq.head] = LsqEntry.empty := by
  rw [h.lsq, lsqNext_entry_get, lsqEntryNext_of_dispatch hd]

/-- R128: the record accepted is the entry at the tail. -/
theorem lsqEntry_of_accept (h : PlainTick f s t) {u : IssueLatch} (hu : lsqAccepting s = some u) :
    t.lsq.entry[s.lsq.tail] = lsqAccepted s u := by
  obtain ⟨hhead, -⟩ := lsqTailStagedTwice_eq_false.1 (noFault_lsqAccept h.noFault h.noFlush hu).2
  rw [h.lsq, lsqNext_entry_get, lsqEntryNext_of_accept h.noFlush hu fun hd => (hhead hd).symm]

/-- R125: a waiting entry is snooped. It is not the head sent, which is Ready, nor the tail entry of an accept. -/
theorem lsqEntry_of_awaiting (h : PlainTick f s t) {j : LsqIdx}
    (hj : (s.lsq.entry[j]).state = .awaitingOperands) : t.lsq.entry[j] = lsqSnooped s s.lsq.entry[j] := by
  have notHead : lsqDispatches s = true → j ≠ s.lsq.head := by
    rintro hd rfl
    exact absurd (hj.symm.trans (lsqDispatches_iff.1 hd).2.1) (by decide)
  have notTail (u : IssueLatch) (hu : lsqAccepting s = some u) : j ≠ s.lsq.tail := by
    rintro rfl
    exact (lsqTailStagedTwice_eq_false.1 (noFault_lsqAccept h.noFault h.noFlush hu).2).2 hj
  rw [h.lsq, lsqNext_entry_get, lsqEntryNext_of_not_staged h.noFlush notHead notTail, lsqWaiting_of_awaiting hj]

end PlainTick

/-- Settles O36: the request latch and the head index follow the one condition of a dispatch. -/
theorem lsqSendsItsReadyHead : Obligations.LsqSendsItsReadyHead := by
  intro i s t h hf
  have ht := exec_plainTick h hf
  refine ⟨fun hready => ?sent, fun hnot => ?held⟩
  case sent =>
    have hd := lsqDispatches_iff.2 hready
    refine ⟨by rw [ht.lsqEntry_of_dispatch hd]; rfl, by rw [ht.lsq_head, if_pos hd], fun w hw => ?_⟩
    obtain ⟨hvalid, hwidth, hdirection⟩ := requestType_valid hw
    exact ⟨_, ht.req_eq_some.2 ⟨hd, rfl⟩, hvalid, hwidth, hdirection, loadsSigned_eq _, rfl, requestData_toNat hw _, rfl⟩
  case held =>
    have hd : ¬ lsqDispatches s = true := fun hd => hnot (lsqDispatches_iff.1 hd)
    exact ⟨by rw [ht.req, if_neg hd], by rw [ht.lsq_head, if_neg hd]⟩

/-- Settles O37: no fault is raised, so the queue is not full and its tail entry is the accept's alone. -/
theorem lsqAppendsAtItsTail : Obligations.LsqAppendsAtItsTail := by
  intro i s hf
  have notFull {t : State} (h : exec i s = .next t) {u : IssueLatch} (hu : lsqAccepting s = some u) :
      s.lsq.count ≠ lsqSize :=
    (noFault_lsqAccept (exec_plainTick h hf).noFault hf hu).1
  refine ⟨fun t h => ?_, fun u hu hunit hfull t h => notFull h (lsqAccepting_eq_some.2 ⟨hu, hunit⟩) hfull⟩
  have ht := exec_plainTick h hf
  refine ⟨fun u hu hunit => ?accepted, fun hnone => ?idle, fun j hj => ht.lsqEntry_of_awaiting hj⟩
  case accepted =>
    have hacc := lsqAccepting_eq_some.2 ⟨hu, hunit⟩
    exact ⟨notFull h hacc, by rw [ht.lsq_tail, hacc]; rfl, ht.lsqEntry_of_accept hacc⟩
  case idle =>
    rw [ht.lsq_tail, lsqAccepting_eq_none.2 hnone]
    rfl

/-! ### Any LSQ_SIZE (R131) -/

/-- A next state of the machine with parameters is that of a tick, at what is fetched at the speculated PC. -/
theorem tick_of_stepWith {cfg : Config} {s t : State} (h : stepWith cfg s = .next t) :
    tick cfg (fetched cfg s) s = .next t := by
  unfold stepWith at h
  split at h
  · split at h
    · cases h
    · exact h
  all_goals cases h

theorem lsqNext_count (cfg : Config) {s : State} (hf : s.csu.flushReq = false) :
    (lsqNext cfg s).count =
      s.lsq.count - (if lsqDispatches s then 1 else 0) + (if (lsqAccepting s).isSome then 1 else 0) := by
  simp [lsqNext, hf]

theorem lsqNext_count_of_flush (cfg : Config) {s : State} (hf : s.csu.flushReq = true) : (lsqNext cfg s).count = 0 := by
  simp [lsqNext, hf]

/-- R128: the count stays within LSQ_SIZE if an accept never finds the queue full. -/
theorem lsqNext_count_le {cfg : Config} {s : State}
    (hroom : s.csu.flushReq = false → ∀ u, lsqAccepting s = some u → s.lsq.count ≠ cfg.lsqSize)
    (hc : s.lsq.count ≤ cfg.lsqSize) : (lsqNext cfg s).count ≤ cfg.lsqSize := by
  cases hf : s.csu.flushReq with
  | true => rw [lsqNext_count_of_flush cfg hf]; exact Nat.zero_le _
  | false =>
    rw [lsqNext_count cfg hf]
    cases hu : lsqAccepting s with
    | none => exact (Nat.sub_le _ _).trans hc
    | some u =>
      have hlt := lt_of_le_of_ne hc (hroom hf u hu)
      simp only [Option.isSome_some, if_true]
      omega

/-- R106: a record is issued to the LSQ only with a place left beside the one it accepts in this tick. -/
theorem lsq_room_of_issue {cfg : Config} {f : Fetched} {s : State} {v : IssueLatch}
    (hv : (csuNext cfg f s).issue = some v) (hunit : v.unit = .lsq) :
    acceptPending s .lsq + 1 ≤ cfg.lsqSize - s.lsq.count := by
  cases hf : s.csu.flushReq with
  | true =>
    rw [csuNext_of_flush cfg f hf] at hv
    cases hv
  | false =>
    rw [csuNext_issue cfg f hf] at hv
    obtain ⟨r, hr, rfl⟩ := Option.map_eq_some_iff.1 hv
    obtain ⟨-, -, -, hroom⟩ := issuing_some hr
    rwa [show r.unit = .lsq from hunit] at hroom

/-- Settles O58: an accept into a full queue is a fault, and issue counts the record being accepted. -/
theorem lsqNeverHoldsMoreThanItsSize : Obligations.LsqNeverHoldsMoreThanItsSize := by
  intro n s t h
  obtain ⟨-, hn, rfl⟩ := tick_next_iff.1 (tick_of_stepWith h)
  have notFull (hf : s.csu.flushReq = false) (u : IssueLatch) (hu : lsqAccepting s = some u) : s.lsq.count ≠ n :=
    (noFault_lsqAccept hn hf hu).1
  refine ⟨fun hc => lsqNext_count_le (cfg := { Config.core with lsqSize := n }) notFull hc,
    fun hf u hu hunit => notFull hf u (lsqAccepting_eq_some.2 ⟨hu, hunit⟩), fun v hv hunit => ?_⟩
  have hroom : acceptPending s .lsq + 1 ≤ n - s.lsq.count := lsq_room_of_issue hv hunit
  refine ⟨by omega, fun u hu hlsq => ?_⟩
  have pending : acceptPending s .lsq = 1 := by
    rw [acceptPending_lsq, lsqAccepting_eq_some.2 ⟨hu, hlsq⟩]
    rfl
  omega

end Sys2Proof.Machine
end

section
/-! The example words of the spec (R137 to R182): each is its instruction's own encoding, and so decodes to it. -/

namespace Sys2Proof

/-- R71: a word that a well-formed instruction encodes to decodes to it. -/
theorem decodeWord_of_encode_eq {i : Instr} {w : Word} (h : encode i = w) (hi : i.wellFormed = true) :
    decodeWord Config.core w = .ok i :=
  h ▸ decodeWord_encode hi

/-- Settles O8: the instruction named is well-formed and has the word. -/
theorem wordsOfTheSpecDecode : Obligations.WordsOfTheSpecDecode := by
  refine ⟨?lui, ?auipc, ?slli, ?sub, ?jal, ?jalr, ?blt, ?lb, ?sb, decodeWord_halt⟩
  all_goals exact decodeWord_of_encode_eq (by decide) (by decide)

end Sys2Proof
end

section
/-! The ALU: the arithmetic shift bit for bit (R136), and what the output latch holds after the tick (R132, R133). -/

namespace Sys2Proof.Machine

/-! ### The arithmetic shift (R136) -/

/-- R136: with n = 0 there is nothing to replicate. -/
theorem sra_eq (v : Word) (n : BitVec 5) :
    sra v n = (v >>> n.toNat) |||
      (if v.getLsbD 31 = true ∧ 0 < n.toNat then ~~~(0xFFFFFFFF#32 >>> n.toNat) else 0#32) := by
  have hn : n ≠ 0#5 ↔ 0 < n.toNat := by rw [Nat.pos_iff_ne_zero, ne_eq, BitVec.toNat_eq]; rfl
  simp only [sra, Bool.and_eq_true, bne_iff_ne, hn]

/-- R136: the mask covers the `n` highest bits. -/
theorem getLsbD_signMask {i : Nat} (hi : i < 32) (n : Nat) :
    (~~~(0xFFFFFFFF#32 >>> n)).getLsbD i = decide (32 ≤ i + n) := by
  rw [show 0xFFFFFFFF#32 = BitVec.allOnes 32 from rfl, BitVec.getLsbD_not, BitVec.getLsbD_ushiftRight,
    BitVec.getLsbD_allOnes, decide_eq_true hi, Bool.true_and, Nat.add_comm n, Bool.not_eq_eq_eq_not, ← decide_not,
    decide_eq_decide]
  omega

/-- R136: what is or-ed in is the sign bit, in the `n` highest bits. -/
theorem getLsbD_signFill (v : Word) (n : Nat) {i : Nat} (hi : i < 32) :
    (if v.getLsbD 31 = true ∧ 0 < n then ~~~(0xFFFFFFFF#32 >>> n) else 0#32).getLsbD i =
      (v.getLsbD 31 && decide (32 ≤ i + n)) := by
  split
  next h =>
    obtain ⟨hsign, -⟩ := h
    rw [getLsbD_signMask hi, hsign, Bool.true_and]
  next h =>
    rw [BitVec.getLsbD_zero, eq_comm, Bool.and_eq_false_iff, ← Bool.not_eq_true, decide_eq_false_iff_not]
    by_contra! hs
    obtain ⟨hsign, hhigh⟩ := hs
    exact h ⟨hsign, by omega⟩

/-- R136: bit `i` comes from `n` places above, or is a copy of the sign bit. -/
theorem getLsbD_sra (v : Word) (n : BitVec 5) {i : Nat} (hi : i < 32) :
    (sra v n).getLsbD i = if i + n.toNat < 32 then v.getLsbD (i + n.toNat) else v.getLsbD 31 := by
  rw [sra_eq, BitVec.getLsbD_or, BitVec.getLsbD_ushiftRight, getLsbD_signFill v _ hi, Nat.add_comm n.toNat]
  by_cases hlow : i + n.toNat < 32
  · rw [if_pos hlow, decide_eq_false (Nat.not_le.2 hlow), Bool.and_false, Bool.or_false]
  · have hhigh := Nat.not_lt.1 hlow
    rw [if_neg hlow, decide_eq_true hhigh, Bool.and_true, BitVec.getLsbD_of_ge v _ hhigh, Bool.false_or]

/-- Settles O14: the shift leaves the `n` highest bits clear, and the mask fills exactly those. -/
theorem sraReplicatesTheSignBit : Obligations.SraReplicatesTheSignBit :=
  ⟨fun v n => ⟨sra_eq v n, fun _ => getLsbD_sra v n⟩, by decide, by decide, by decide, by decide⟩

/-! ### The output latch (R132) -/

theorem aluNext_of_noDispatch {s : State} (h : s.rs.dispatch = none) : (aluNext s).out = none := by
  simp [aluNext, h]

/-- Settles O15: no fault is raised, so a record dispatched has a result (R133). -/
theorem aluLatchHoldsTheDispatchedResult : Obligations.AluLatchHoldsTheDispatchedResult := by
  intro i s t h
  refine ⟨fun hidle => ?idle, fun d hf hd => ?computed⟩
  case idle =>
    obtain ⟨-, -, rfl⟩ := exec_next_iff.1 h
    obtain hf | hd := hidle
    · exact aluNext_of_flush hf
    · exact aluNext_of_noDispatch hd
  case computed =>
    have ht := exec_plainTick h hf
    obtain ⟨r, hr⟩ := noFault_aluResult ht.noFault hf hd
    exact ⟨r, hr, ht.aluOut_of_dispatch hd hr⟩

end Sys2Proof.Machine
end

section
/-! An instruction of the ALU issued by a quiet machine has its sequential effect (R116) and no other: for five ticks
nothing reaches the registers or memory, whatever is issued behind it, and the fifth commits it. -/

namespace Sys2Proof.Machine

/-! ### How far the records are from the registers and from memory -/

/-- In each of the next `n` ticks no value is written to a register and no access is performed. Each field keeps the
records that many ticks away: from the issue latch a result reaches the commit latch by way of an RS slot, the dispatch
latch, the ALU's output and its ROB entry, and an access is performed after the LSQ, the request latch, Busy_1 and
Busy_2. -/
structure Undisturbed (n : Nat) (s : State) : Prop where
  bound : n ≤ 6
  noFlush : 1 ≤ n → s.csu.flushReq = false
  noCommit : 1 ≤ n → s.csu.commit = none
  notReady : 2 ≤ n → ∀ q : RobIdx, (s.csu.rob[q]).state ≠ .readyToCommit
  noAluOut : 3 ≤ n → s.alu.out = none
  noMemOut : 3 ≤ n → s.mem.out = none
  noDispatch : 4 ≤ n → s.rs.dispatch = none
  noIssue : 6 ≤ n → s.csu.issue = none
  noSlot : 5 ≤ n → ∀ j : RsIdx, (s.rs.slot[j]).state = .empty
  notBusy2 : 1 ≤ n → s.mem.state ≠ .busy2
  memFree : 2 ≤ n → s.mem.state = .free
  noRequest : 3 ≤ n → s.lsq.req = none
  noEntry : 4 ≤ n → s.lsq.count = 0
  noAccess : 5 ≤ n → lsqAccepting s = none

/-- The registers, the bytes and the playback records are the same. -/
structure SameStores (s t : State) : Prop where
  regs : t.rf.value = s.rf.value
  bytes : t.mem.bytes = s.mem.bytes
  playback : ∀ q : RobIdx, t.mem.playback[q] = s.mem.playback[q]

theorem SameStores.trans {s t u : State} (h : SameStores s t) (h' : SameStores t u) : SameStores s u where
  regs := h'.regs.trans h.regs
  bytes := h'.bytes.trans h.bytes
  playback q := (h'.playback q).trans (h.playback q)

namespace PlainTick

variable {f : Fetched} {s t : State} {n : Nat}

/-- R52, R55, R91: with no commit in the latch and no access at its end the stores keep their contents. -/
theorem sameStores (h : PlainTick f s t) (hc : s.csu.commit = none) (hm : s.mem.state ≠ .busy2) : SameStores s t where
  regs := by rw [h.rf, rfNext_value, rfValueNext_of_noCommit hc]
  bytes := by
    obtain ⟨-, hbytes, -⟩ := h.idle_of_ne_busy2 hm
    exact hbytes
  playback q := by
    have idle := memWriting_of_not_performing (memPerforming_of_ne_busy2 hm)
    rw [h.playback_of_not_writing (by simp [idle]), commitsSlot, hc]
    rfl

/-- Each record moves by one place in a tick; the first one issued is not an access. -/
theorem undisturbed (h : PlainTick f s t) (hs : Undisturbed (n + 1) s)
    (hu : 5 ≤ n → ∀ r, f = .known r → r.unit = .rs) : Undisturbed n t := by
  have notCommits (hn : 1 ≤ n) : s.csu.commits = false := by
    rw [← Bool.not_eq_true, commits_iff]
    rintro ⟨-, hready⟩
    exact hs.notReady (by omega) _ hready
  have notDispatches (hn : 3 ≤ n) : ¬ lsqDispatches s = true := fun hd => by
    have := lsqCount_pos_of_dispatches hd
    have := hs.noEntry (by omega)
    omega
  have hb := hs.bound
  exact
    { bound := by omega
      noFlush := fun hn => by rw [h.flushReq, Csu.flushNow, notCommits hn]; rfl
      noCommit := fun hn => by rw [h.commit, notCommits hn]; rfl
      notReady := fun hn q hq => by
        obtain ⟨hr, -⟩ | ⟨o, ho, -⟩ | ⟨o, ho, -⟩ := h.ready_cases hq
        · exact hs.notReady (by omega) q hr
        · exact absurd ((hs.noAluOut (by omega)).symm.trans ho) (by simp)
        · exact absurd ((hs.noMemOut (by omega)).symm.trans ho) (by simp)
      noAluOut := fun hn => by rw [h.alu, aluNext_of_noDispatch (hs.noDispatch (by omega))]
      noMemOut := fun hn => by
        obtain ⟨hout, -⟩ := h.idle_of_ne_busy2 (hs.notBusy2 (by omega))
        exact hout
      noDispatch := fun hn => by
        rw [h.dispatch, rsSelect_eq_none.2 fun j => (hs.noSlot (by omega) j).trans_ne (by decide), Option.map_none]
      noIssue := fun hn => by omega
      noSlot := fun hn j =>
        h.slot_stays_empty (hs.noSlot (by omega) j) (by simp [rsAccepting, hs.noIssue (by omega)])
      notBusy2 := fun hn => by
        rw [h.mem_state, memStateNext, h.noFlush, hs.memFree (by omega)]
        cases s.lsq.req <;> simp
      memFree := fun hn => by
        rw [h.mem_state, memStateNext, h.noFlush, hs.memFree (by omega), hs.noRequest (by omega)]
        rfl
      noRequest := fun hn => by rw [h.req, if_neg (notDispatches hn)]
      noEntry := fun hn => by rw [h.lsq_count, hs.noEntry (by omega), hs.noAccess (by omega), Nat.zero_sub]; rfl
      noAccess := fun hn => by
        rw [lsqAccepting_eq_none]
        intro u hissue
        obtain ⟨r, hr, rfl⟩ := h.issue_eq_some.1 hissue
        obtain ⟨hf, -⟩ := issuing_some hr
        exact (hu hn r hf).trans_ne (by decide) }

end PlainTick

/-- A run that starts undisturbed leaves the registers and memory. -/
theorem Undisturbed.run {n : Nat} {s t : State} (hs : Undisturbed n s) (hn : n ≤ 5)
    (h : Host.Core.run Sys2Proof.core n s = .next t) : SameStores s t := by
  induction n generalizing s with
  | zero =>
    cases h
    exact ⟨rfl, rfl, fun _ => rfl⟩
  | succ n ih =>
    simp only [Host.Core.run] at h
    split at h
    next u hu =>
      obtain ⟨hf, -⟩ | ⟨f, hp⟩ := step_flush_or_plain hu
      · exact absurd ((hs.noFlush (by omega)).symm.trans hf) (by decide)
      · have hrest := ih (hp.undisturbed hs (by omega)) (by omega) h
        exact (hp.sameStores (hs.noCommit (by omega)) (hs.notBusy2 (by omega))).trans hrest
    all_goals cases h

/-! ### The effect of an instruction of the ALU -/

/-- R91: the registers with the write of the commit latch applied. -/
theorem rfValueNext_of_commitLatch {s : State} {q : RobIdx} {d : Bool} {r : RegIdx} {v : Word}
    (h : s.csu.commit = some { rob := q, hasRd := d, rd := r, value := v }) :
    rfValueNext s = if d then setReg s.rf.value r v else s.rf.value := by
  cases d with
  | true => exact rfValueNext_of_commit h rfl
  | false => exact rfValueNext_of_commit_noRd h rfl

namespace Quiet

variable {s : State} {i : Instr}

/-- The architectural state of a quiet machine is what its units hold. -/
theorem archView_eq (h : Quiet s) : archView s = { regs := s.rf.value, pc := s.csu.specPc, mem := s.mem.bytes } := by
  rw [← archView_mem_of_noPlayback h.noPlayback, h.pcs, archView, rfValueNext_of_noCommit h.noCommit]

theorem undisturbed (h : Quiet s) : Undisturbed 6 s where
  bound := le_rfl
  noFlush _ := h.noFlush
  noCommit _ := h.noCommit
  notReady _ q := (h.robEmpty q).trans_ne (by decide)
  noAluOut _ := h.noAluOut
  noMemOut _ := h.noMemOut
  noDispatch _ := h.noDispatch
  noIssue _ := h.noIssue
  noSlot _ := h.rsEmpty
  notBusy2 _ := h.memFree.trans_ne (by decide)
  memFree _ := h.memFree
  noRequest _ := h.noRequest
  noEntry _ := h.lsqCount
  noAccess _ := lsqAccepting_eq_none.2 (by simp [h.noIssue])

/-- The tick that issues an instruction of the ALU, and the five behind it, leave the registers and memory. -/
theorem sameStores_of_run (h : Quiet s) (hu : i.cls.unit = .rs) {t u : State} (ht : exec i s = .next t)
    (hrun : Host.Core.run Sys2Proof.core 5 t = .next u) : SameStores s u := by
  have hp := exec_plainTick ht h.noFlush
  have h5 := hp.undisturbed h.undisturbed fun _ r hr => by
    rw [← Fetched.known.inj hr, issueReqOf_unit, hu]
  exact (hp.sameStores h.noCommit (h.memFree.trans_ne (by decide))).trans (h5.run le_rfl hrun)

/-- R116: five ticks after its issue by a quiet machine an instruction of the ALU has had its sequential effect. -/
theorem completes_effectOf (h : Quiet s) (hu : i.cls.unit = .rs) (hn : i ≠ .halt) :
    Completes (exec i s) 5 (effectOf i (archView s)) := by
  obtain ⟨t, u, hexec, hrun, hdone⟩ := h.completes hu
  obtain ⟨f, v, hs, -, -, hpc, hcommit, -⟩ :=
    hdone.commits (by rw [allocated, issueReqOf_cls]; exact cls_ne_halt hn)
  have hrun5 := (run_add hrun 1).trans (run_succ hs 0)
  obtain ⟨hregs, hbytes, hplayback⟩ := h.sameStores_of_run hu hexec hrun5
  have hmem : (archView v).mem = (archView s).mem := by
    rw [archView_mem_of_noPlayback h.noPlayback, ← hbytes]
    exact archView_mem_of_noPlayback fun q => (hplayback q).trans (h.noPlayback q)
  refine ⟨t, v, hexec, hrun5, ArchState.Same.eq ⟨?regs, ?mem⟩ hpc⟩
  case regs =>
    have hview : (archView s).regs = s.rf.value := by rw [h.archView_eq]
    rw [effectOf, regsAfter, hview, ← hregs]
    exact rfValueNext_of_commitLatch hcommit
  case mem => rw [hmem, effectOf, memAfter_of_not_store (storeWidth_of_rs hu)]

/-- R116: the effect as the sequential reading of the instruction gives it. -/
theorem completes_of_archExec (h : Quiet s) {a : ArchState} (hu : i.cls.unit = .rs)
    (ha : archExec i { regs := s.rf.value, pc := s.csu.specPc, mem := s.mem.bytes } = .next a) :
    Completes (exec i s) 5 a := by
  have hn : i ≠ .halt := by
    rintro rfl
    cases ha
  rw [← h.archView_eq, archExec_eq_effectOf hn, ArchOutcome.next.injEq] at ha
  rw [← ha]
  exact h.completes_effectOf hu hn

end Quiet

/-! ### The results in the words of R135 to R157 -/

/-- R140, R141: the word of a comparison. -/
theorem boolWord_decide (p : Prop) [Decidable p] : boolWord (decide p) = if p then 1#32 else 0#32 := by
  simp only [boolWord, decide_eq_true_eq]

/-- R135: the low five bits. -/
theorem shiftAmount_toNat (b : Word) : (shiftAmount b).toNat = b.toNat % 32 := by
  rw [shiftAmount, BitVec.extractLsb'_toNat, Nat.shiftRight_zero]

/-- Settles O16: the values of R137 to R147, as the sequential reading gives them. -/
theorem immediateInstructionsComplete : Obligations.ImmediateInstructionsComplete := by
  intro s rd rs1 imm20 imm sh h
  refine ⟨?lui, ?auipc, ?addi, ?slti, ?sltiu, ?xori, ?ori, ?andi, ?slli, ?srli, ?srai⟩
  case slti | sltiu =>
    rw [← boolWord_decide]
    exact h.completes_of_archExec rfl rfl
  all_goals exact h.completes_of_archExec rfl rfl

/-- Settles O17: the values of R148 to R157, as the sequential reading gives them. -/
theorem registerInstructionsComplete : Obligations.RegisterInstructionsComplete := by
  intro s rd rs1 rs2 h
  refine ⟨?add, ?sub, ?sll, ?slt, ?sltu, ?xor, ?srl, ?sra, ?or, ?and⟩
  case sll | srl =>
    rw [← shiftAmount_toNat]
    exact h.completes_of_archExec rfl rfl
  case slt | sltu =>
    rw [← boolWord_decide]
    exact h.completes_of_archExec rfl rfl
  all_goals exact h.completes_of_archExec rfl rfl

end Sys2Proof.Machine
end

section
/-! The jumps and the conditional branches (R162 to R170) issued by a quiet machine: their sequential effect, the fetch
PC behind them, and the stall of a jalr until its target is known. -/

namespace Sys2Proof.Machine

/-! ### A jalr until its target is known (R101, R112) -/

/-- Entry `q`, alone in the ROB, is a jalr whose target is not known. -/
structure JalrWaits (q : RobIdx) (s : State) : Prop where
  inv : PipelineInv s
  unresolved : jalrUnresolved s.csu.rob[q]
  alone : s.csu.robCount = 1

/-- Entry `q`, still alone in the ROB, is completed, and issue goes on at its next PC. -/
structure JalrResolved (q : RobIdx) (s : State) : Prop where
  ready : (s.csu.rob[q]).state = .readyToCommit
  alone : s.csu.robCount = 1
  noWait : s.csu.jalrWait = false
  specPc : s.csu.specPc = (s.csu.rob[q]).resolvedPc

namespace JalrWaits

variable {f : Fetched} {q : RobIdx} {s t : State}

theorem unfinished (h : JalrWaits q s) : Unfinished s q := by
  obtain ⟨-, hs⟩ := h.unresolved
  exact hs

/-- R103, R112: nothing is issued behind it. -/
theorem issuing_eq_none (h : JalrWaits q s) (f : Fetched) : issuing Config.core s f = none :=
  Option.eq_none_iff_forall_ne_some.2 fun _ hr => h.inv.not_issuing_of_jalr h.unresolved hr

/-- It neither commits nor is joined by another entry. -/
theorem robCount_of_plainTick (h : JalrWaits q s) (ht : PlainTick f s t) : t.csu.robCount = 1 := by
  obtain ⟨hpop, hage⟩ := (stays_iff h.inv.pointers).1 h.unfinished.stays
  have halone := h.alone
  rw [ht.robCount, h.issuing_eq_none f, Option.isSome_none, if_neg (by decide)]
  omega

/-- R101: only the ALU completes it, and its result is the target. -/
theorem resolved_of_ready (h : JalrWaits q s) (ht : PlainTick f s t)
    (hq : (t.csu.rob[q]).state = .readyToCommit) : JalrResolved q t := by
  obtain ⟨hcls, hs⟩ := h.unresolved
  obtain ⟨hr, -⟩ | ⟨o, ho, rfl, -, he⟩ | ⟨o, ho, rfl, -⟩ := ht.ready_cases hq
  · obtain hs | hs := hs <;> exact absurd (hs.symm.trans hr) (by decide)
  · have target := jalrCompletes_of_jalr ho hcls
    refine ⟨hq, h.robCount_of_plainTick ht, ?_, ?_⟩
    · rw [ht.jalrWait, jalrWaitNext, target]
      rfl
    · rw [ht.specPc, specPcNext, target, he]
      rfl
  · have hunit := ((h.inv.memEntries o.rob).1 (memOut_mem ho)).2
    rw [hcls] at hunit
    exact absurd hunit (by decide)

theorem of_plainTick (h : JalrWaits q s) (ht : PlainTick f s t) : JalrWaits q t ∨ JalrResolved q t := by
  obtain ⟨hocc, -, hcls, -⟩ := ht.rob_kept h.unfinished.stays
  obtain ⟨hjalr, -⟩ := h.unresolved
  have waits (hs : Unfinished t q) : JalrWaits q t :=
    ⟨ht.pipelineInv h.inv, ⟨hcls.trans hjalr, hs⟩, h.robCount_of_plainTick ht⟩
  cases hs : (t.csu.rob[q]).state with
  | empty => exact absurd hs hocc
  | issued => exact .inl (waits (.inl hs))
  | executing => exact .inl (waits (.inr hs))
  | readyToCommit => exact .inr (h.resolved_of_ready ht hs)

/-- In a run with nothing completed before its last tick, that tick resolves it. -/
theorem resolved_of_run {n : Nat} (h : JalrWaits q s) (hs : Undisturbed (n + 1) s) (hn : n < 5)
    (hrun : Host.Core.run Sys2Proof.core n s = .next t) (hq : (t.csu.rob[q]).state = .readyToCommit) :
    JalrResolved q t := by
  induction n generalizing s with
  | zero =>
    cases hrun
    obtain he | he := h.unfinished <;> exact absurd (he.symm.trans hq) (by decide)
  | succ n ih =>
    simp only [Host.Core.run] at hrun
    split at hrun
    next u hu =>
      obtain ⟨hf, -⟩ | ⟨f, hp⟩ := step_flush_or_plain hu
      · exact absurd ((hs.noFlush (by omega)).symm.trans hf) (by decide)
      · have hsu := hp.undisturbed hs (by omega)
        obtain hwaits | hdone := h.of_plainTick hp
        · exact ih hwaits hsu (by omega) hrun hq
        · cases n with
          | zero =>
            cases hrun
            exact hdone
          | succ n => exact absurd hdone.ready (hsu.notReady (by omega) q)
    all_goals cases hrun

end JalrWaits

/-! ### Jumps issued by a quiet machine -/

namespace Quiet

variable {s t : State} {i : Instr}

/-- R107: the fetch PC goes on at the guessed address. -/
theorem specPc_of_exec (h : Quiet s) (hj : i.cls ≠ .jalr) (ht : exec i s = .next t) :
    t.csu.specPc = guessedNext i s.csu.specPc := by
  obtain ⟨hpc, -⟩ := (exec_plainTick ht h.noFlush).fetch_of_issuing (h.canIssue i.cls.unit).issuing
  rw [hpc, if_neg (issueReqOf_guess_eq_wait_iff.not.2 hj), specNextOf_guess]

/-- R112: a jalr is alone in the ROB, its target not known. -/
theorem jalrWaits_of_exec (h : Quiet s) (hj : i.cls = .jalr) (ht : exec i s = .next t) :
    JalrWaits s.csu.robTail t := by
  have hc := h.canIssue i.cls.unit
  have hp := exec_plainTick ht h.noFlush
  have hentry := hp.rob_tail_of_issuing hc.issuing
  refine ⟨hp.pipelineInv hc.inv, ⟨?_, .inl ?_⟩, ?_⟩
  · rw [hentry, allocated, issueReqOf_cls, hj]
  · rw [hentry]
    rfl
  · rw [hp.robCount, hc.issuing, h.robCount, Nat.zero_sub]
    rfl

/-- R112, log entry 21: a jalr issued by a quiet machine stalls issue until, four ticks later, its target is the fetch
PC. -/
theorem jalr_resolves (h : Quiet s) (hj : i.cls = .jalr) :
    ∃ t u, exec i s = .next t ∧ t.csu.jalrWait = true ∧ Host.Core.run Sys2Proof.core 4 t = .next u ∧
      u.csu.jalrWait = false ∧ u.csu.robCount = 1 ∧ u.csu.specPc = (resultOf i (archView s)).nextPc := by
  have hu : i.cls.unit = .rs := by rw [hj]; rfl
  obtain ⟨t, u, hexec, hrun, hdone⟩ := h.completes hu
  have hwaits := h.jalrWaits_of_exec hj hexec
  have undisturbed : Undisturbed 5 t := (exec_plainTick hexec h.noFlush).undisturbed h.undisturbed fun _ r hr => by
    rw [← Fetched.known.inj hr, issueReqOf_unit, hu]
  have hresolved := hwaits.resolved_of_run undisturbed (by decide) hrun hdone.ready
  exact ⟨t, u, hexec, hwaits.inv.jalrStalls _ hwaits.unresolved, hrun, hresolved.noWait, hresolved.alone,
    hresolved.specPc.trans hdone.resolvedPc⟩

/-- R99, R113: no flush is requested at the commit of a jalr, nor of an instruction whose next PC was guessed. -/
theorem commits_without_flush (h : Quiet s) (hu : i.cls.unit = .rs) (hn : i ≠ .halt)
    (hguess : i.cls = .jalr ∨ (resultOf i (archView s)).nextPc = guessedNext i s.csu.specPc) :
    ∃ t u, exec i s = .next t ∧ Host.Core.run Sys2Proof.core 5 t = .next u ∧ u.csu.flushReq = false := by
  obtain ⟨t, u, hexec, hrun, hflush, -⟩ := h.flushesTo hu hn
  refine ⟨t, u, hexec, hrun, hflush.trans ?_⟩
  rw [Bool.and_eq_false_iff, bne_eq_false_iff_eq, bne_eq_false_iff_eq]
  exact hguess

/-- R162: jal computes the address that was guessed for it. -/
theorem jal_nextPc (h : Quiet s) (rd : RegIdx) (off : BitVec 21) :
    (resultOf (.jal rd off) (archView s)).nextPc = guessedNext (.jal rd off) s.csu.specPc := by
  rw [h.archView_eq]
  rfl

/-- R163: jalr computes its target from the RF's value. -/
theorem jalr_nextPc (h : Quiet s) (rd rs1 : RegIdx) (imm : BitVec 12) :
    (resultOf (.jalr rd rs1 imm) (archView s)).nextPc = (s.rf.read rs1 + immediate12 imm) &&& 0xFFFFFFFE#32 := by
  rw [h.archView_eq]
  rfl

end Quiet

/-- Settles O18: jal follows its own guess, and jalr is alone in the ROB until the ALU has computed its target. -/
theorem jumpsComplete : Obligations.JumpsComplete := by
  intro s rd rs1 off imm h
  refine ⟨h.completes_of_archExec rfl rfl, h.completes_of_archExec rfl rfl, ?jal, ?jalr⟩
  case jal =>
    have followed := h.jal_nextPc rd off
    obtain ⟨t, u, hexec, hrun, hflush⟩ := h.commits_without_flush (i := .jal rd off) rfl nofun (.inr followed)
    exact ⟨t, u, hexec, h.specPc_of_exec (i := .jal rd off) nofun hexec, hrun, hflush⟩
  case jalr =>
    obtain ⟨t, u, hexec, hwait, hrun, hnoWait, hcount, hpc⟩ := h.jalr_resolves (i := .jalr rd rs1 imm) rfl
    obtain ⟨t', v, hexec', hrun', hflush⟩ := h.commits_without_flush (i := .jalr rd rs1 imm) rfl nofun (.inl rfl)
    obtain rfl : t = t' := Host.Outcome.next.inj (hexec.symm.trans hexec')
    exact ⟨t, u, v, hexec, hwait, hrun, hnoWait, hcount, hpc.trans (h.jalr_nextPc rd rs1 imm), hrun', hflush⟩

/-- Settles O19: the conditions of R165 to R170, as the sequential reading gives them. -/
theorem branchesComplete : Obligations.BranchesComplete := by
  intro s rs1 rs2 off h
  refine ⟨?beq, ?bne, ?blt, ?bge, ?bltu, ?bgeu⟩
  case bne =>
    rw [decide_not, ← beq_eq_decide]
    exact h.completes_of_archExec rfl rfl
  all_goals exact h.completes_of_archExec rfl rfl

end Sys2Proof.Machine
end

section
/-! What a tick does not show (R113, R189): one in which nothing commits leaves the architectural state, whatever it issues,
performs or discards. Only the pipeline and the playback invariants are assumed. -/

namespace Sys2Proof.Machine

section Invisible

variable {f : Fetched} {s t : State}

theorem PlainTick.commits_eq_false (h : PlainTick f s t) (hc : t.csu.commit = none) : s.csu.commits = false := by
  rw [← Bool.not_eq_true]
  intro hcom
  exact absurd (hc.symm.trans (h.commit_eq_some.2 ⟨hcom, rfl⟩)) (by simp)

/-- R52, R57: a store performed leaves a record that undoes it, and no record is discarded of what has not committed. -/
theorem PlainTick.archView_of_noCommit (h : PlainTick f s t) (hi : PipelineInv s) (hb : PlaybackInv s)
    (hc : t.csu.commit = none) : archView t = archView s := by
  have hcom := h.commits_eq_false hc
  have hregs : (archView t).regs = (archView s).regs := by
    rw [archView, rfValueNext_of_noCommit hc, h.rf]
    rfl
  have hpc : (archView t).pc = (archView s).pc := by
    rw [archView, h.archPc, hcom]
    rfl
  have hmem : (archView t).mem = (archView s).mem := by
    have undone := h.undoneFrom_eq hb hi (m := 0) fun _ _ _ => Nat.zero_le _
    rwa [popped, hcom, if_neg (by decide), Nat.add_zero, undoneFrom_zero, undoneFrom_zero] at undone
  exact ArchState.Same.eq ⟨hregs, hmem⟩ hpc

end Invisible

/-- Settles O44: a flush tick undoes what it discards (R56), and any other tick without a commit adds only what can be
undone. -/
theorem ticksWithoutCommitAreInvisible : Obligations.TicksWithoutCommitAreInvisible := by
  intro s t hi hb h hc
  obtain ⟨hf, f, ht⟩ | ⟨f, ht⟩ := step_flush_or_plain h
  · exact archView_of_flushTick hf ht
  · exact ht.archView_of_noCommit hi hb hc

end Sys2Proof.Machine
end

section
/-! The host faults a step can answer (R190, R192): with the pipeline invariant none but the one of an Unknown word, and of
several the one of the lowest code. -/

namespace Sys2Proof.Machine

/-- R83, R87: only a running machine answers a host fault. -/
theorem running_of_step_fault {s : State} {k : HostFault} (h : step s = .fault (.host k)) : s.drv.status = .running := by
  by_contra hr
  rw [step_ended hr] at h
  cases h

/-- Settles O47: a host fault is that of an Unknown word on the architectural path, whose code is 1. -/
theorem internalFaultsAreUnreachable : Obligations.InternalFaultsAreUnreachable := by
  intro s hi
  have unknown {k : HostFault} (h : step s = .fault (.host k)) := hi.fault_of_step (running_of_step_fault h) h
  refine ⟨fun k hk h => ?internal, fun k h => ?fault⟩
  case internal =>
    obtain ⟨-, rfl, -⟩ := unknown h
    cases hk
  case fault =>
    obtain ⟨-, hillegal, hflush, hwait, hcount⟩ := unknown h
    exact ⟨hillegal, hcount, hflush, hwait⟩

/-- Settles O55: a tick not refused answers the lowest of the faults raised, if there is one. -/
theorem lowestFaultIsReported : Obligations.LowestFaultIsReported := by
  intro i s hr
  refine ⟨fun hn => ⟨_, exec_next_iff.2 ⟨hr, hn, rfl⟩⟩, fun hn => ?_⟩
  obtain ⟨k, hk⟩ := Option.ne_none_iff_exists'.1 (lowestFault_eq_none.not.2 hn)
  refine ⟨k, ?_, lowestFault_mem hk, lowestFault_le hk⟩
  rw [exec_eq_tick]
  exact tick_fault_iff.2 ⟨hr, k, hk, rfl⟩

end Sys2Proof.Machine
end

section
/-! The words of no class (R68, R71): those with an opcode that no row of the class table has. -/

namespace Sys2Proof

/-- R70: the halt word has an opcode of the table, so it is not among them. -/
theorem decodeWord_of_no_class {w : Word} (h : ∀ c : OpClass, Field.opcode w ≠ c.row.opcode) :
    decodeWord Config.core w = .error (.unknownOpcode w) :=
  (if_neg (ne_haltWord_of_opcode (h .halt))).trans <| (if_neg (h .lui)).trans <| (if_neg (h .auipc)).trans <|
    (if_neg (h .jal)).trans <| (if_neg (h .jalr)).trans <| (if_neg (h .beq)).trans <| (if_neg (h .lb)).trans <|
    (if_neg (h .sb)).trans <| (if_neg (h .addi)).trans <| if_neg (h .add)

/-- R68, R69: no class is a fence or a system instruction, and every opcode ends in 11. -/
theorem row_opcode (c : OpClass) :
    c.row.opcode ≠ 0x0F#7 ∧ c.row.opcode ≠ 0x73#7 ∧ c.row.opcode.extractLsb' 0 2 = 3#2 := by
  cases c <;> decide

/-- R65: the low bits of a word are those of its opcode. -/
theorem extractLsb'_opcode (w : Word) : (Field.opcode w).extractLsb' 0 2 = w.extractLsb' 0 2 := by
  rw [Field.opcode]
  ext i hi
  simp only [BitVec.getElem_extractLsb', BitVec.getLsbD_extractLsb']
  simp [show i < 7 by omega]

/-- Settles O12: such a word has the opcode of no class. -/
theorem systemAndFenceWordsAreUnknown : Obligations.SystemAndFenceWordsAreUnknown := by
  intro w h
  refine decodeWord_of_no_class fun c hc => ?_
  obtain ⟨hfence, hsystem, hlow⟩ := row_opcode c
  obtain h | h | h := h
  · exact hfence (hc.symm.trans h)
  · exact hsystem (hc.symm.trans h)
  · rw [← extractLsb'_opcode, hc] at h
    exact h hlow

end Sys2Proof
end

section
/-! The commit of an instruction issued by a quiet machine: the architectural state it leaves, and the end of the run that a
halt's commit is (R99, R100, R182). -/

namespace Sys2Proof.Machine

/-- The registers are those of `a`, memory is that after `i`, and no entry but `i`'s own, `q`, has a playback record. -/
structure StoresAfter (i : Instr) (a : ArchState) (q : RobIdx) (s : State) : Prop where
  regs : s.rf.value = a.regs
  bytes : s.mem.bytes = memAfter i a
  playback : ∀ j : RobIdx, j ≠ q → s.mem.playback[j] = none

theorem StoresAfter.of_sameStores {i : Instr} {a : ArchState} {q : RobIdx} {s t : State} (h : StoresAfter i a q s)
    (same : SameStores s t) : StoresAfter i a q t where
  regs := same.regs.trans h.regs
  bytes := same.bytes.trans h.bytes
  playback j hj := (same.playback j).trans (h.playback j hj)

/-- R91, R99: in the tick behind its commit the architectural state is that after the instruction. -/
theorem StoresAfter.archView_eq {i : Instr} {a : ArchState} {q : RobIdx} {s : State} (h : StoresAfter i a q s)
    (hcommit : s.csu.commit =
      some { rob := q, hasRd := (issueReqOf i).hasRd, rd := (issueReqOf i).rd, value := (resultOf i a).value })
    (hpc : s.csu.archPc = (resultOf i a).nextPc) : archView s = effectOf i a := by
  refine ArchState.Same.eq ⟨?regs, ?mem⟩ hpc
  case regs =>
    rw [effectOf, regsAfter, ← h.regs]
    exact rfValueNext_of_commitLatch hcommit
  case mem =>
    rw [← undoneFrom_zero, undoneFrom_of_no_record]
    · exact h.bytes
    · intro j r hr hc
      have hj : j ≠ q := (commitsSlot_eq_false_iff.1 hc _ hcommit).symm
      exact absurd ((h.playback j hj).symm.trans hr) (by simp)

namespace Completed

variable {q : RobIdx} {e : RobEntry} {r : AluResult} {s : State}

theorem headEntry (h : Completed q e r s) : s.csu.headEntry = s.csu.rob[q] := by
  rw [Csu.headEntry]
  simp only [h.head]

theorem commits_head (h : Completed q e r s) : s.csu.commits = true := by
  rw [Csu.commits, h.headEntry, h.ready, decide_eq_true (Nat.pos_of_ne_zero h.robCount_ne_zero)]
  rfl

/-- R99: the next tick commits it, the halt's entry like any other. -/
theorem commit_step (h : Completed q e r s) :
    ∃ f t, step s = .next t ∧ PlainTick f s t ∧ t.csu.archPc = r.nextPc ∧
      t.csu.commit = some { rob := q, hasRd := e.hasRd, rd := e.rd, value := r.value } := by
  obtain ⟨f, t, hs, ht⟩ := h.step_plainTick
  refine ⟨f, t, hs, ht, ?_, ?_⟩
  · rw [ht.archPc, if_pos h.commits_head, h.headEntry, h.resolvedPc]
  · rw [ht.commit, if_pos h.commits_head, Csu.commitLatch, h.headEntry, h.hasRd, h.rd, h.value, h.head]

end Completed

/-! ### The halt (R100, R182) -/

theorem RegFile.read_congr {rf rf' : RegFile} (h : rf.value = rf'.value) (r : RegIdx) : rf.read r = rf'.read r := by
  rw [RegFile.read, RegFile.read, h]

/-- R91: a tick stores the architectural registers. -/
theorem PlainTick.read_eq_x {f : Fetched} {s t : State} (h : PlainTick f s t) (r : RegIdx) :
    t.rf.read r = (archView s).x r := by
  rw [h.rf, archView_x]

theorem PlainTick.haltSignal_of_halt {f : Fetched} {s t : State} (h : PlainTick f s t) (hc : s.csu.commits = true)
    (hh : s.csu.headEntry.cls = .halt) :
    t.csu.haltSignal = 0x100#32 ||| (((archView s).x 10#5).setWidth 8).setWidth 32 := by
  rw [h.csu, csuNext_haltSignal _ _ h.noFlush, if_pos (by simp [hc, hh]), haltLatch_core, currentA0_eq]

/-- R86: every step counts one tick. -/
theorem cycle_of_step {s t : State} (h : step s = .next t) : t.drv.cycle = s.drv.cycle + 1 := by
  obtain ⟨-, f, -, -, -, rfl⟩ := step_cases h
  rfl

theorem cycle_of_run {n : Nat} {s t : State} (h : Host.Core.run Sys2Proof.core n s = .next t) :
    t.drv.cycle = s.drv.cycle + n := by
  induction n generalizing s with
  | zero =>
    cases h
    rfl
  | succ n ih =>
    simp only [Host.Core.run] at h
    split at h
    next u hu => rw [ih h, cycle_of_step hu, Nat.add_assoc, Nat.add_comm 1]
    all_goals cases h

/-- Settles O23: for five ticks nothing reaches the registers or memory, and the fifth commits the halt. -/
theorem haltCompletes : Obligations.HaltCompletes := by
  intro s h
  obtain ⟨t, u, hexec, hrun, hdone⟩ := h.completes (i := .halt) rfl
  obtain ⟨f, v, hs, hv, hpc, hcommit⟩ := hdone.commit_step
  have hrun5 := (run_add hrun 1).trans (run_succ hs 0)
  obtain ⟨hregs, hbytes, hplayback⟩ := h.sameStores_of_run rfl hexec hrun5
  have stores : StoresAfter .halt (archView s) s.csu.robTail v :=
    { regs := by rw [hregs, h.archView_eq]
      bytes := by rw [hbytes, memAfter_of_not_store rfl, h.archView_eq]
      playback := fun j _ => (hplayback j).trans (h.noPlayback j) }
  have hcls : u.csu.headEntry.cls = .halt := by
    rw [hdone.headEntry, hdone.cls]
    rfl
  have ha0 : (archView u).x 10#5 = s.rf.read 10#5 := (hv.read_eq_x 10#5).symm.trans (RegFile.read_congr hregs _)
  have hcycle : t.drv.cycle = s.drv.cycle + 1 := by
    obtain ⟨-, -, rfl⟩ := exec_next_iff.1 hexec
    rfl
  refine ⟨⟨t, v, hexec, hrun5, ?view⟩, t, v, hexec, hrun5, ?status, ?signal, ?cycle⟩
  case view => rw [stores.archView_eq hcommit hpc, effectOf_halt, h.archView_eq]
  case status => rw [hv.status_of_halt hdone.commits_head hcls, ha0]
  case signal => rw [hv.haltSignal_of_halt hdone.commits_head hcls, ha0]
  case cycle => rw [cycle_of_run hrun5, hcycle]

end Sys2Proof.Machine
end

section
/-! A load or store issued by a quiet machine has its sequential effect (R116) and no other: it goes by way of the LSQ, the
request latch, Busy_1 and Busy_2 to Memory's result latch, is completed and commits, each in one tick (log entry 21), and
while it is on its way no access issued behind it is performed. -/

namespace Sys2Proof.Machine

/-! ### The request of an access (R127, R171) -/

/-- R127: the request of entry `q` for an instruction executed in `a`. -/
def requestFor (i : Instr) (a : ArchState) (q : RobIdx) : MemRequest :=
  { type := requestType i.cls
    signed := loadsSigned i.cls
    addr := accessAddr i a
    data := requestData i.cls (a.src (issueReqOf i).src2)
    rob := q }

/-- The record of the request is in the issue latch, on its way to an empty LSQ. -/
structure OnlyAccess (r : MemRequest) (u : IssueLatch) (s : State) : Prop where
  issue : s.csu.issue = some u
  unit : u.unit = .lsq
  op1 : u.op1.resolved = true
  op2 : u.op2.resolved = true
  request : lsqRequest (lsqAccepted s u) = r
  empty : s.lsq.count = 0
  noRequest : s.lsq.req = none
  memFree : s.mem.state = .free

namespace PlainTick

variable {f : Fetched} {s t : State} {q : RobIdx} {r : MemRequest} {i : Instr} {a : ArchState}

/-- R126, R128: the record accepted into an empty LSQ is its head, Ready to be sent. -/
theorem lsqDispatches_of_onlyAccess (h : PlainTick f s t) (hi : PipelineInv s) {u : IssueLatch}
    (hu : OnlyAccess r u s) : lsqDispatches t = true ∧ lsqRequest t.lsq.entry[t.lsq.head] = r := by
  have hacc : lsqAccepting s = some u := lsqAccepting_eq_some.2 ⟨hu.issue, hu.unit⟩
  have idle : ¬ lsqDispatches s = true := fun hd => absurd hu.empty (lsqCount_pos_of_dispatches hd).ne'
  have htail : s.lsq.tail = s.lsq.head := by
    have tail := hi.lsqTail
    rw [hu.empty, Nat.add_zero, Nat.mod_eq_of_lt s.lsq.head.isLt] at tail
    exact Fin.ext tail
  have hhead : t.lsq.head = s.lsq.tail := by rw [h.lsq_head, if_neg idle, htail]
  have hentry : t.lsq.entry[t.lsq.head] = lsqAccepted s u := by
    simp only [hhead]
    exact h.lsqEntry_of_accept hacc
  refine ⟨lsqDispatches_iff.2 ⟨?_, ?_, ?_, ?_⟩, by rw [hentry, hu.request]⟩
  · rw [h.lsq_count, hacc]
    exact Nat.succ_pos _
  · rw [hentry, lsqAccepted, snoop_of_resolved _ hu.op1, snoop_of_resolved _ hu.op2]
    exact slotStateOf_eq_ready.2 ⟨hu.op1, hu.op2⟩
  · rw [h.mem_state, memStateNext, h.noFlush, hu.memFree, hu.noRequest]
    rfl
  · rw [h.req, if_neg idle]

/-! ### Memory's protocol (R50 to R52) -/

/-- R50: a Free Memory accepts the request in the latch. -/
theorem busy1_of_request (h : PlainTick f s t) (hm : s.mem.state = .free) (hr : s.lsq.req = some r) :
    t.mem.state = .busy1 ∧ t.mem.pending = some r := by
  simp [h.mem_state, h.mem_pending, memStateNext, memPendingNext, h.noFlush, hm, hr]

/-- R51: in Busy_1 it waits. -/
theorem busy2_of_busy1 (h : PlainTick f s t) (hm : s.mem.state = .busy1) (hr : s.mem.pending = some r) :
    t.mem.state = .busy2 ∧ t.mem.pending = some r := by
  simp [h.mem_state, h.mem_pending, memStateNext, memPendingNext, h.noFlush, hm, hr]

theorem free_of_busy2 (h : PlainTick f s t) (hm : s.mem.state = .busy2) : t.mem.state = .free := by
  simp [h.mem_state, memStateNext, h.noFlush, hm]

/-- R50: a request accepted in one tick is not performed in the next. -/
theorem ne_busy2_of_free (h : PlainTick f s t) (hm : s.mem.state = .free) : t.mem.state ≠ .busy2 := by
  rw [h.mem_state, memStateNext, h.noFlush, hm]
  cases s.lsq.req <;> simp

/-- R52: the access performed publishes the instruction's result and leaves the memory after it. -/
theorem access_performed (h : PlainTick f s t) (hu : i.cls.unit = .lsq) (hp : memPerforming s = some (requestFor i a q))
    (hb : s.mem.bytes = a.mem) :
    t.mem.out = some { rob := q, value := (resultOf i a).value } ∧ t.mem.bytes = memAfter i a := by
  obtain ⟨w, hw⟩ := Option.isSome_iff_exists.1 ((accessWidth_isSome _).2 hu)
  obtain ⟨-, hwidth, hdir⟩ := requestType_valid hw
  rw [resultOf_of_access hw]
  cases hs : isStore i.cls with
  | true =>
    rw [hs, if_pos rfl] at hdir
    obtain ⟨hout, -, -, hbytes⟩ := h.write_performed hp hdir hwidth
    refine ⟨hout, hbytes.trans ?_⟩
    rw [memAfter_of_storeWidth (storeWidth_eq_some.2 ⟨hs, hw⟩), hb]
    exact store_requestData hs hw _ _ _
  | false =>
    rw [hs, if_neg Bool.false_ne_true] at hdir
    obtain ⟨hout, hbytes, -⟩ := h.read_performed hp hdir hwidth
    refine ⟨?_, ?_⟩
    · rw [hout, hb]
      rfl
    · rw [hbytes, hb, memAfter_of_not_store (by rw [storeWidth, hs]; rfl)]

/-- R91: with no commit in the latch no value is written. -/
theorem regs_kept (h : PlainTick f s t) (hc : s.csu.commit = none) : t.rf.value = s.rf.value := by
  rw [h.rf, rfNext_value, rfValueNext_of_noCommit hc]

/-- R52: the only record added is that of the access performed. -/
theorem playback_of_other (h : PlainTick f s t) (hp : memPerforming s = some r) {j : RobIdx} (hj : j ≠ r.rob)
    (hn : s.mem.playback[j] = none) : t.mem.playback[j] = none := by
  rw [h.playback_of_not_writing, hn, ite_self]
  intro p w hw
  obtain rfl : r = p := Option.some.inj (hp.symm.trans (memPerforming_of_writing hw))
  exact hj.symm

/-- D31: Memory's broadcast leaves the next PC of an access as issue gave it. -/
theorem rob_target_kept (h : PlainTick f s t) (hi : PipelineInv s) (hs : Stays s q)
    (hu : (s.csu.rob[q]).cls.unit = .lsq) :
    (t.csu.rob[q]).resolvedPc = (s.csu.rob[q]).resolvedPc ∧ (t.csu.rob[q]).mismatch = (s.csu.rob[q]).mismatch := by
  obtain ⟨hocc, hhead⟩ := hs
  have hm := h.rob q
  generalize t.csu.rob[q] = e at hm
  cases hm with
  | commit hc hq => exact absurd hq (hhead hc)
  | issue _ _ _ he => exact absurd he hocc
  | aluDone o ho hq =>
    subst hq
    exact absurd (hu.symm.trans ((hi.aluEntries o.rob).1 (aluOut_mem ho)).2) (by decide)
  | memDone | start | keep => exact ⟨rfl, rfl⟩

end PlainTick

/-! ### The entry of an access, on its way -/

/-- The head entry `q` is an access, and its next PC is known. -/
structure AccessInFlight (q : RobIdx) (e : RobEntry) (s : State) : Prop extends InFlight q e s where
  unit : e.cls.unit = .lsq
  resolvedPc : (s.csu.rob[q]).resolvedPc = e.specNext
  mismatch : (s.csu.rob[q]).mismatch = false

namespace AccessInFlight

variable {q : RobIdx} {e : RobEntry} {s t : State} {f : Fetched}

theorem of_plainTick (h : AccessInFlight q e s) (ht : PlainTick f s t)
    (hn : (s.csu.rob[q]).state ≠ .readyToCommit) : AccessInFlight q e t := by
  obtain ⟨hpc, hmismatch⟩ := ht.rob_target_kept h.inv (stays_of_not_ready h.occupied hn) (by rw [h.cls, h.unit])
  exact
    { h.toInFlight.of_plainTick ht hn with
      unit := h.unit
      resolvedPc := hpc.trans h.resolvedPc
      mismatch := hmismatch.trans h.mismatch }

/-- R52, R91: a tick in which Memory performs nothing takes the entry on and leaves the registers and memory. -/
theorem tick (h : AccessInFlight q e s) (hn : (s.csu.rob[q]).state = .issued ∨ (s.csu.rob[q]).state = .executing)
    (hm : s.mem.state ≠ .busy2) :
    ∃ f t, step s = .next t ∧ PlainTick f s t ∧ AccessInFlight q e t ∧ SameStores s t := by
  obtain ⟨f, t, hs, ht⟩ := h.step_plainTick
  have unfinished : (s.csu.rob[q]).state ≠ .readyToCommit := by
    obtain hn | hn := hn <;> exact hn.trans_ne (by decide)
  exact ⟨f, t, hs, ht, h.of_plainTick ht unfinished, ht.sameStores h.noCommit hm⟩

/-- R101: Memory's broadcast completes the entry. -/
theorem completed (h : AccessInFlight q e s) (ht : PlainTick f s t) {v : Word}
    (ho : s.mem.out = some { rob := q, value := v }) : Completed q e ⟨v, e.specNext⟩ t := by
  have hentry := ht.rob_of_memOut ho
  have hexec := ((h.inv.memEntries q).1 (memOut_mem ho)).1
  have next := h.of_plainTick ht (hexec.trans_ne (by decide))
  refine { next.toInFlight with ready := ?_, value := ?_, resolvedPc := next.resolvedPc, mismatch := ?_ }
  · rw [hentry]; rfl
  · rw [hentry]; rfl
  · rw [next.mismatch]; simp

end AccessInFlight

namespace Quiet

variable {s t : State} {i : Instr}

/-- R108: the entry allocated is the head of the machine. -/
theorem inFlight_of_exec (h : Quiet s) (ht : exec i s = .next t) :
    InFlight s.csu.robTail (allocated Config.core s.csu.specPc (issueReqOf i)) t := by
  have hp := exec_plainTick ht h.noFlush
  have hc := h.canIssue i.cls.unit
  have hentry := hp.rob_tail_of_issuing hc.issuing
  have hcom : s.csu.commits = false := by simp [Csu.commits, h.robCount]
  have hmark : haltMarked Config.core t.csu = false := by
    rw [haltMarked, hp.haltSignal_kept fun hcom' => absurd (hcom'.symm.trans hcom) (by decide)]
    exact h.notMarked
  exact
    { inv := hp.pipelineInv hc.inv
      running := hp.running hmark
      notMarked := hmark
      noFlush := hp.flushReq.trans hc.noFlushNow
      noCommit := by rw [hp.commit, hcom]; rfl
      head := by rw [hp.robHead, hcom]; exact h.robPointers.symm
      occupied := by rw [hentry]; exact nofun
      cls := by rw [hentry]
      pc := by rw [hentry]
      hasRd := by rw [hentry]
      rd := by rw [hentry]
      specNext := by rw [hentry]
      unstored := fun k hk hmem => by
        rw [hp.guard, mem_guardNext_stored] at hmem
        obtain hmem | ⟨c, hcommit, -⟩ := hmem
        · exact absurd ((fetchesStored_iff.2 ⟨k, hk, .inl hmem⟩).symm.trans h.admitted) (by decide)
        · exact absurd (h.noCommit.symm.trans hcommit) (by simp) }

/-- R103 to R110: a quiet machine issues the access, its operands read from the RF, and its next PC is the next word's. -/
theorem issues_access (h : Quiet s) (hu : i.cls.unit = .lsq) :
    ∃ t u, exec i s = .next t ∧
      AccessInFlight s.csu.robTail (allocated Config.core s.csu.specPc (issueReqOf i)) t ∧
      OnlyAccess (requestFor i (archView s) s.csu.robTail) u t ∧
      (t.csu.rob[s.csu.robTail]).state = .issued ∧ SameStores s t := by
  have hc := h.canIssue i.cls.unit
  have hexec := hc.inv.exec_next (refusedFetch_known_eq_none (issueReqOf i) hc.admitted)
  have ht := exec_plainTick hexec h.noFlush
  have hentry := ht.rob_tail_of_issuing hc.issuing
  have idle : ¬ lsqDispatches s = true := fun hd => absurd h.lsqCount (lsqCount_pos_of_dispatches hd).ne'
  have notAccepting : lsqAccepting s = none := lsqAccepting_eq_none.2 (by simp [h.noIssue])
  obtain ⟨h1, hv1⟩ := h.resolveSrc (issueReqOf i).src1
  obtain ⟨h2, hv2⟩ := h.resolveSrc (issueReqOf i).src2
  refine ⟨_, issueLatchOf Config.core s (issueReqOf i), hexec, ?inFlight, ?issue, by rw [hentry]; rfl,
    ht.sameStores h.noCommit (h.memFree.trans_ne (by decide))⟩
  case inFlight =>
    refine { h.inFlight_of_exec hexec with unit := ?_, resolvedPc := ?_, mismatch := ?_ }
    · rw [allocated, issueReqOf_cls, hu]
    · rw [hentry, allocated, if_pos ((issueReqOf_unit i).trans hu), issueReqOf_guess_of_lsq hu]
      rfl
    · rw [hentry]
      rfl
  case issue =>
    exact
      { issue := ht.issue_eq_some.2 ⟨_, hc.issuing, rfl⟩
        unit := (issueReqOf_unit i).trans hu
        op1 := h1
        op2 := h2
        request := by
          simp only [lsqAccepted, lsqRequest, issueLatchOf, snoop_of_resolved _ h1, snoop_of_resolved _ h2, hv1, hv2,
            issueReqOf_cls]
          rfl
        empty := by rw [ht.lsq_count, h.lsqCount, notAccepting, Nat.zero_sub]; rfl
        noRequest := by rw [ht.req, if_neg idle]
        memFree := by
          rw [ht.mem_state, memStateNext, h.noFlush, h.memFree, h.noRequest]
          rfl }

/-- Log entry 21: four ticks after its issue Memory performs the access, on the memory of the quiet machine. -/
theorem access_reaches_memory (h : Quiet s) (hu : i.cls.unit = .lsq) :
    ∃ t u, exec i s = .next t ∧ Host.Core.run Sys2Proof.core 4 t = .next u ∧
      AccessInFlight s.csu.robTail (allocated Config.core s.csu.specPc (issueReqOf i)) u ∧ u.mem.state = .busy2 ∧
      u.mem.pending = some (requestFor i (archView s) s.csu.robTail) ∧ SameStores s u := by
  obtain ⟨t, u, hexec, h0, hissue, hissued, same0⟩ := h.issues_access hu
  obtain ⟨f1, t1, hs1, ht1, h1, same1⟩ := h0.tick (.inl hissued) (hissue.memFree.trans_ne (by decide))
  obtain ⟨hdispatch, hrequest⟩ := ht1.lsqDispatches_of_onlyAccess h0.inv hissue
  obtain ⟨-, hready, hfree, -⟩ := lsqDispatches_iff.1 hdispatch
  have hqueued := (h1.inv.lsqEntry_executing (hready.trans_ne (by decide))).1
  have hrob := congrArg MemRequest.rob hrequest
  simp only [lsqRequest, requestFor] at hrob
  simp only [hrob] at hqueued
  obtain ⟨f2, t2, hs2, ht2, h2, same2⟩ := h1.tick (.inr hqueued) (hfree.trans_ne (by decide))
  have hsent := ht2.req_eq_some.2 ⟨hdispatch, hrequest.symm⟩
  have hfree2 := (h2.inv.reqFree _ hsent).1
  obtain ⟨f3, t3, hs3, ht3, h3, same3⟩ :=
    h2.tick (.inr (h2.inv.request_entry (.inl hsent)).1) (hfree2.trans_ne (by decide))
  obtain ⟨hbusy1, hpend3⟩ := ht3.busy1_of_request hfree2 hsent
  obtain ⟨f4, t4, hs4, ht4, h4, same4⟩ :=
    h3.tick (.inr (h3.inv.request_entry (.inr hpend3)).1) (hbusy1.trans_ne (by decide))
  obtain ⟨hbusy2, hpend4⟩ := ht4.busy2_of_busy1 hbusy1 hpend3
  refine ⟨t, t4, hexec, ?_, h4, hbusy2, hpend4, (((same0.trans same1).trans same2).trans same3).trans same4⟩
  rw [run_succ hs1, run_succ hs2, run_succ hs3, run_succ hs4]
  rfl

/-- R52: in the fifth tick its result is published, and nothing else is performed. -/
theorem access_publishes (h : Quiet s) (hu : i.cls.unit = .lsq) :
    ∃ t u, exec i s = .next t ∧ Host.Core.run Sys2Proof.core 5 t = .next u ∧
      AccessInFlight s.csu.robTail (allocated Config.core s.csu.specPc (issueReqOf i)) u ∧ u.mem.state = .free ∧
      u.mem.out = some { rob := s.csu.robTail, value := (resultOf i (archView s)).value } ∧
      StoresAfter i (archView s) s.csu.robTail u := by
  obtain ⟨t, u, hexec, hrun, hfly, hbusy2, hpend, hregs, hbytes, hplayback⟩ := h.access_reaches_memory hu
  obtain ⟨f, v, hs, hv⟩ := hfly.step_plainTick
  have hperforming := (memPerforming_of_busy2 hfly.noFlush hbusy2).trans hpend
  have hnext := hfly.of_plainTick hv ((hfly.inv.request_entry (.inr hpend)).1.trans_ne (by decide))
  obtain ⟨hout, hafter⟩ := hv.access_performed hu hperforming (by rw [hbytes, h.archView_eq])
  refine ⟨t, v, hexec, (run_add hrun 1).trans (run_succ hs 0), hnext, hv.free_of_busy2 hbusy2, hout, ?_, hafter,
    fun j hj => hv.playback_of_other hperforming hj ((hplayback j).trans (h.noPlayback j))⟩
  rw [hv.regs_kept hfly.noCommit, hregs, h.archView_eq]

/-- R52, R108: the next PC of an access is the one guessed at its issue. -/
theorem access_nextPc (h : Quiet s) (hu : i.cls.unit = .lsq) :
    (allocated Config.core s.csu.specPc (issueReqOf i)).specNext = (resultOf i (archView s)).nextPc := by
  obtain ⟨w, hw⟩ := Option.isSome_iff_exists.1 ((accessWidth_isSome _).2 hu)
  rw [resultOf_of_access hw, allocated, issueReqOf_guess_of_lsq hu, h.pcs]
  rfl

/-- R101: in the sixth tick the result completes the entry. -/
theorem access_completes (h : Quiet s) (hu : i.cls.unit = .lsq) :
    ∃ t u, exec i s = .next t ∧ Host.Core.run Sys2Proof.core 6 t = .next u ∧
      Completed s.csu.robTail (allocated Config.core s.csu.specPc (issueReqOf i)) (resultOf i (archView s)) u ∧
      u.mem.state ≠ .busy2 ∧ StoresAfter i (archView s) s.csu.robTail u := by
  obtain ⟨t, u, hexec, hrun, hfly, hfree, hout, stores⟩ := h.access_publishes hu
  have hexecuting := ((hfly.inv.memEntries _).1 (memOut_mem hout)).1
  obtain ⟨f, v, hs, hv, -, same⟩ := hfly.tick (.inr hexecuting) (hfree.trans_ne (by decide))
  have hdone := hfly.completed hv hout
  rw [h.access_nextPc hu] at hdone
  refine ⟨t, v, hexec, (run_add hrun 1).trans (run_succ hs 0), hdone, hv.ne_busy2_of_free hfree,
    stores.of_sameStores same⟩

/-- R116: in the seventh tick after its issue by a quiet machine a load or store has had its sequential effect. -/
theorem access_completes_effectOf (h : Quiet s) (hu : i.cls.unit = .lsq) :
    Completes (exec i s) 7 (effectOf i (archView s)) := by
  obtain ⟨t, u, hexec, hrun, hdone, hidle, stores⟩ := h.access_completes hu
  obtain ⟨f, v, hs, hv, hpc, hcommit⟩ := hdone.commit_step
  have same := hv.sameStores hdone.noCommit hidle
  exact ⟨t, v, hexec, (run_add hrun 1).trans (run_succ hs 0), (stores.of_sameStores same).archView_eq hcommit hpc⟩

/-- R116: the effect as the sequential reading of the access gives it. -/
theorem access_completes_of_archExec (h : Quiet s) {a : ArchState} (hu : i.cls.unit = .lsq)
    (ha : archExec i { regs := s.rf.value, pc := s.csu.specPc, mem := s.mem.bytes } = .next a) :
    Completes (exec i s) 7 a := by
  have hn : i ≠ .halt := by
    rintro rfl
    cases hu
  rw [← h.archView_eq, archExec_eq_effectOf hn, ArchOutcome.next.injEq] at ha
  rw [← ha]
  exact h.access_completes_effectOf hu

end Quiet

/-- Settles O21: the values of R174 to R178, as the sequential reading gives them. -/
theorem loadsComplete : Obligations.LoadsComplete := by
  intro s rd rs1 imm h
  refine ⟨?lb, ?lh, ?lw, ?lbu, ?lhu⟩
  all_goals exact h.access_completes_of_archExec rfl rfl

/-- Settles O22: the stores of R179 to R181, as the sequential reading gives them, and the bytes R43 says they change. -/
theorem storesComplete : Obligations.StoresComplete := by
  intro s rs1 rs2 imm h hm
  refine ⟨?sb, ?sh, ?sw, fun w => ⟨fun k hk => ?inside, fun a ha => ?outside⟩⟩
  case inside => exact Memory.read8_store_inside hm w _ _ k hk
  case outside => exact Memory.read8_store_outside hm w _ a _ ha
  all_goals exact h.access_completes_of_archExec rfl rfl

end Sys2Proof.Machine
end
